-- ==== Sys2Proof/Word.lean ====
section
/-! DEFINITION. The words of the block: the byte value and the 16-bit CRC register (00_scope.md R9, 10_state.md R28). -/

namespace Sys2Proof

/-- A byte value, "an 8-bit unsigned integer; the universal unit of wire data" (R13, R28). -/
abbrev Byte := BitVec 8

/-- The width of the CRC register, `CRC_W` = 16 bits (R9). -/
abbrev Half := BitVec 16

end Sys2Proof
end

