-- ==== Sys2Proof/Config.lean ====
section
/-! DEFINITION. What is fixed for one engine instance (the OPEN parameter of D8) and the free values of the transient
registers while they are dead (93_implementation_defined.md I6). -/

namespace Sys2Proof

/-- The parameters an implementation fixes. State holds one; no step changes it (log 3). -/
structure Config where
  /-- `maxSeqLen` of R9 and D8: `none` means sequences of any finite length. -/
  maxSeqLen : Option Nat
  deriving DecidableEq, Repr

/-! The free values: what each transient register holds once its command has ended, "any value" (I6).
Draw `n` is the one made when `State.draws` is `n`. Nothing constrains them (log 5). -/

opaque Config.deadCrc : Nat → Half
opaque Config.deadBitk : Nat → BitVec 4
opaque Config.deadIdx : Nat → Nat
opaque Config.deadAcc : Nat → Byte
opaque Config.deadPsh : Nat → Byte
opaque Config.deadPcnt : Nat → BitVec 4
opaque Config.deadOut : Nat → List Byte

end Sys2Proof
end

