-- ==== Sys2Proof/Syntax.lean ====
section
/-! DEFINITION. The commands of the engine: one constructor per row of spec/opcode_table.json (30_encoding.md R61). -/

namespace Sys2Proof

/-- The RtuFrame record, six bytes in the declared order (10_state.md R29). -/
structure Hdr where
  slave : Byte
  fc : Byte
  sah : Byte
  sal : Byte
  rch : Byte
  rcl : Byte
  deriving DecidableEq, Repr

/-- A decoded command with its operand (R61). -/
inductive Instr where
  /-- 0x01 BIN2ASCII, R100. -/
  | bin2ascii (v : Byte)
  /-- 0x02 PARITY8, R110. -/
  | parity8 (v : Byte)
  /-- 0x03 CRC16, R113. -/
  | crc16 (s : List Byte)
  /-- 0x04 LRC, R119. -/
  | lrc (s : List Byte)
  /-- 0x05 BUILD, R151. -/
  | build (h : Hdr)
  /-- 0x06 DUMP, R153. -/
  | dump (s : List Byte)
  /-- 0x07 RECEIVE, R155: the received message and `expectedSize`, an unbounded signed integer (D7). -/
  | receive (s : List Byte) (n : Int)
  deriving DecidableEq, Repr

end Sys2Proof
end

