-- ==== Sys2Proof/WellFormed.lean ====
section
/-! DEFINITION. Well-formed commands. "Every `Operand` value of the right shape is legal for its `op`" (R63), so the
only check on a command's operand is the length bound `maxSeqLen` (R62, R208). -/

namespace Sys2Proof

/-- The length of the sequence a command carries; `none` for F_BYTE and F_HDR commands (R60). -/
def Instr.seqLen : Instr → Option Nat
  | .bin2ascii _ => none
  | .parity8 _ => none
  | .crc16 s => some s.length
  | .lrc s => some s.length
  | .build _ => none
  | .dump s => some s.length
  | .receive s _ => some s.length

/-- A command is well-formed when the sequence it carries, if any, is within the bound, if any (R62). -/
def Instr.wf (maxLen : Option Nat) (i : Instr) : Bool :=
  match maxLen, i.seqLen with
  | some m, some n => decide (n ≤ m)
  | some _, none => true
  | none, _ => true

end Sys2Proof
end

