-- ==== Sys2Proof/Decode.lean ====
section
/-! DEFINITION. The command format (30_encoding.md R60, R61), its decoder (R62, R63) and its encoder. -/

namespace Sys2Proof

/-- The four operand formats of R60. -/
inductive Format where
  | byte
  | seq
  | hdr
  | recv
  deriving DecidableEq, Repr

/-- The operand of a command, by value (R60). -/
inductive Operand where
  | oByte (v : Byte)
  | oSeq (s : List Byte)
  | oHdr (h : Hdr)
  | oRecv (s : List Byte) (n : Int)
  deriving DecidableEq, Repr

/-- A command as the host issues it, `Cmd = { op : byte, operand : Operand }` (R60). -/
structure Cmd where
  op : Byte
  operand : Operand
  deriving DecidableEq, Repr

/-- The closed set of fault kinds (60_exceptions.md R200). -/
inductive FaultKind where
  /-- A reserved `op`, or an operand of the wrong shape (R206). -/
  | illegalCommand
  /-- RECEIVE with `len(s) = expectedSize < 2` (R207). -/
  | shortFrame
  /-- A sequence longer than `maxSeqLen` (R208). -/
  | operandTooLong
  deriving DecidableEq, Repr

/-- The shape of an operand, as the format it belongs to (R60). -/
def operandFormat : Operand → Format
  | .oByte _ => .byte
  | .oSeq _ => .seq
  | .oHdr _ => .hdr
  | .oRecv _ _ => .recv

/-- The format of an assigned `op`; `none` for the reserved values 0x00 and 0x08–0xFF (R61, R63). -/
def opFormat (op : Byte) : Option Format :=
  if op = 0x01#8 then some .byte
  else if op = 0x02#8 then some .byte
  else if op = 0x03#8 then some .seq
  else if op = 0x04#8 then some .seq
  else if op = 0x05#8 then some .hdr
  else if op = 0x06#8 then some .seq
  else if op = 0x07#8 then some .recv
  else none

/-- The command map of R61 read on an operand of the right shape; `none` for a reserved `op` and for a wrong shape. -/
def instrOf (op : Byte) : Operand → Option Instr
  | .oByte v =>
    if op = 0x01#8 then some (.bin2ascii v) else if op = 0x02#8 then some (.parity8 v) else none
  | .oSeq s =>
    if op = 0x03#8 then some (.crc16 s)
    else if op = 0x04#8 then some (.lrc s)
    else if op = 0x06#8 then some (.dump s)
    else none
  | .oHdr h => if op = 0x05#8 then some (.build h) else none
  | .oRecv s n => if op = 0x07#8 then some (.receive s n) else none

/-- Decode (R62): IllegalCommand is checked before OperandTooLong (R212). Total. -/
def decode (maxLen : Option Nat) (c : Cmd) : Except FaultKind Instr :=
  match instrOf c.op c.operand with
  | none => .error .illegalCommand
  | some i => if i.wf maxLen then .ok i else .error .operandTooLong

/-- The `op` code of a command (R61). -/
def opOf : Instr → Byte
  | .bin2ascii _ => 0x01#8
  | .parity8 _ => 0x02#8
  | .crc16 _ => 0x03#8
  | .lrc _ => 0x04#8
  | .build _ => 0x05#8
  | .dump _ => 0x06#8
  | .receive _ _ => 0x07#8

/-- The operand of a command, in its format's shape (R60, R61). -/
def operandOf : Instr → Operand
  | .bin2ascii v => .oByte v
  | .parity8 v => .oByte v
  | .crc16 s => .oSeq s
  | .lrc s => .oSeq s
  | .build h => .oHdr h
  | .dump s => .oSeq s
  | .receive s n => .oRecv s n

/-- The encoder, written from the same table (R61). -/
def encode (i : Instr) : Cmd := ⟨opOf i, operandOf i⟩

/-- The bytes an operand carries, in order (R65). `expectedSize` is an integer beside them, no byte of them. -/
def operandBytes : Operand → List Byte
  | .oByte v => [v]
  | .oSeq s => s
  | .oHdr h => [h.slave, h.fc, h.sah, h.sal, h.rch, h.rcl]
  | .oRecv s _ => s

/-- The first `n` bytes of a number, the lowest first. -/
def wordBytes : Nat → Nat → List Byte
  | 0, _ => []
  | n + 1, w => BitVec.ofNat 8 w :: wordBytes n (w / 256)

/-- The operand in format `f` that carries the bytes `b`, with zeros where `b` gives none (log 10):
`expectedSize` has no bits in the table and is 0. -/
def operandFromBytes (f : Format) (b : List Byte) : Operand :=
  match f with
  | .byte => .oByte (b.getD 0 0#8)
  | .seq => .oSeq b
  | .hdr => .oHdr ⟨b.getD 0 0#8, b.getD 1 0#8, b.getD 2 0#8, b.getD 3 0#8, b.getD 4 0#8, b.getD 5 0#8⟩
  | .recv => .oRecv b 0

/-- The command a table word stands for: `op` in bits 7..0 as spec/opcode_table.json numbers them, the operand's bytes
above it (log 10). A reserved `op` is given an empty sequence, which decodes to nothing. -/
def tableCmd (nbits w : Nat) : Cmd :=
  let op : Byte := BitVec.ofNat 8 w
  ⟨op, operandFromBytes ((opFormat op).getD .seq) (wordBytes (nbits / 8 - 1) (w / 256))⟩

/-- The instruction the decoder reads from a word of the opcode table; no length bound (`maxSeqLen = none`). -/
def decodeTableWord (nbits w : Nat) : Option Instr :=
  match decode none (tableCmd nbits w) with
  | .ok i => some i
  | .error _ => none

end Sys2Proof
end

