-- ==== Sys2Proof/Machine/State.lean ====
section
/-! DEFINITION. The state of one engine instance (10_state.md R21, R26, R34), the results it delivers (30_encoding.md
R66), and what the host does to it. Plain data. -/

namespace Sys2Proof.Machine

/-- `Phase = Idle | Busy` (R21). Busy is seen only in the micro-step view (R27). -/
inductive Phase where
  | idle
  | busy
  deriving DecidableEq, Repr

/-- The closed set of result statuses (R66). `ok` is `OK`, and `Valid` for RECEIVE. -/
inductive Status where
  | ok
  | notAscii
  | outOfHexRange
  | sizeMismatch
  | checksumMismatch
  deriving DecidableEq, Repr

/-- The result fields of R66, one form per command; `absent` where a field marked "OK only" is not present. -/
inductive Fields where
  | absent
  | ch (c : Byte)
  | bit (b : BitVec 1)
  | crc (lo hi : Byte)
  | lrc (l : Byte) (ascii : List Byte)
  | frame (f : List Byte)
  | text (t : List Byte)
  | ok (b : BitVec 1)
  deriving DecidableEq, Repr

/-- `Res = { op : byte, status : Status, fields }` (R66). -/
structure Res where
  op : Byte
  status : Status
  fields : Fields
  deriving DecidableEq, Repr

/-- `FaultRecord = { op : byte, kind : FaultKind }` (R21). -/
structure FaultRecord where
  op : Byte
  kind : FaultKind
  deriving DecidableEq, Repr

/-- The transient datapath registers of R26, under the spec's names and widths. -/
structure Datapath where
  crc : Half
  bitk : BitVec 4
  idx : Nat
  acc : Byte
  psh : Byte
  pcnt : BitVec 4
  out : List Byte
  deriving DecidableEq, Repr

/-- The transient registers at reset. DESIGN CHOICE, unsafe (log 4): the spec leaves them unspecified (R34). -/
def Datapath.reset : Datapath :=
  { crc := 0#16, bitk := 0#4, idx := 0, acc := 0#8, psh := 0#8, pcnt := 0#4, out := [] }

/-- The command in flight of a micro-step run (R27, R34), with the number of iterations it has left (log 8). -/
structure InFlight where
  instr : Instr
  left : Nat
  deriving DecidableEq, Repr

/-- What the host does at the engine (R20, R230; log 1 and log 7). -/
inductive HostEvent where
  /-- Issue a command. -/
  | issue (c : Cmd)
  /-- Raise reset (R230). -/
  | reset
  /-- Let one step pass without an action (log 7). -/
  | wait
  deriving DecidableEq, Repr

/-- The state of one engine instance. -/
structure State where
  /-- The fixed parameters (R9; log 3). -/
  config : Config
  /-- `phase` (R21). -/
  phase : Phase
  /-- `faultLog`, oldest first (R21, R209). -/
  faultLog : List FaultRecord
  /-- The command in flight (R34). -/
  inflight : Option InFlight
  /-- The transient datapath registers (R26). -/
  regs : Datapath
  /-- The host's actions still to come, next first (R54; log 1). -/
  host : List HostEvent
  /-- The results delivered to the host, in issue order (R237; log 2). -/
  results : List Res
  /-- Which free value the dead transient registers take next (I6; log 5). -/
  draws : Nat
  deriving DecidableEq, Repr

/-- Why the machine stops with a fault. The spec's own faults (R200) are NOT these: the spec describes their effect, so
they are taken as a next state (`raiseFault`, log 6). -/
inductive Fault where
  /-- Raised by a step in a state that is Busy with no command in flight, which the spec's rules never make and give no
  step. Safe: no claim about such a state can be proved (log 9). -/
  | busyWithoutCommand
  deriving DecidableEq, Repr

/-- Why the machine gives an instruction no meaning. -/
inductive Refusal where
  /-- Raised by an arm of `exec` whose instruction has no meaning yet. Safe. No arm raises it in this model. -/
  | notModelled (mnemonic : String)
  deriving DecidableEq, Repr

/-- The machine right after reset (R34): Idle, an empty fault log, no command in flight. The transient registers are
log 4's choice, `maxSeqLen = none` log 3's; nothing is issued and nothing delivered yet (log 1, log 2). -/
def State.reset : State :=
  { config := ⟨none⟩
    phase := .idle
    faultLog := []
    inflight := none
    regs := Datapath.reset
    host := []
    results := []
    draws := 0 }

end Sys2Proof.Machine
end

