-- ==== Sys2Proof/Machine/Flags.lean ====
section
/-! DEFINITION. The block has no flag register (10_state.md R24): an outcome is reported in a result's `status`, in
RECEIVE's `ok` bit, or in a fault record. This file gives their codes and the `ok` bit. -/

namespace Sys2Proof.Machine

/-- The numeric code of a status (R66). -/
def statusCode : Status → BitVec 4
  | .ok => 0x0#4
  | .notAscii => 0x1#4
  | .outOfHexRange => 0x2#4
  | .sizeMismatch => 0x3#4
  | .checksumMismatch => 0x4#4

/-- The numeric code of a fault kind (R200). -/
def faultCode : FaultKind → BitVec 4
  | .illegalCommand => 0x8#4
  | .shortFrame => 0x9#4
  | .operandTooLong => 0xA#4

/-- RECEIVE's `ok`: 1 exactly when the status is Valid (R159). -/
def okBit (st : Status) : BitVec 1 := if st = .ok then 1#1 else 0#1

end Sys2Proof.Machine
end

