-- ==== Sys2Proof/Machine/Operands.lean ====
section
/-! DEFINITION. The operand forms: reading an element of a sequence, the zones of a frame, the bytes of a record
(20_memory.md R41–R46, 10_state.md R29, R30), and the host's edit of a sequence (30_encoding.md R68). -/

namespace Sys2Proof.Machine

/-- `In(s, i)` (R41). The engine reads only below `len(s)`; there is no element above it. -/
def readIn (s : List Byte) (i : Nat) : Option Byte := s[i]?

/-- `R[7:0]` (R43). -/
def lowByte (r : Half) : Byte := r.extractLsb' 0 8

/-- `R[15:8]` (R43). -/
def highByte (r : Half) : Byte := r.extractLsb' 8 8

/-- A CRC where it goes into a sequence: low byte first (R43). -/
def crcBytes (r : Half) : List Byte := [lowByte r, highByte r]

/-- `v[7:4]` (R46). -/
def highNibble (v : Byte) : BitVec 4 := v.extractLsb' 4 4

/-- `v[3:0]` (R46). -/
def lowNibble (v : Byte) : BitVec 4 := v.extractLsb' 0 4

/-- The payload zone of a sequence, all bytes but the last two (R30). -/
def payloadZone (s : List Byte) : List Byte := s.take (s.length - 2)

/-- The six bytes of a record in declared order (R29, R151). -/
def hdrBytes (h : Hdr) : List Byte := [h.slave, h.fc, h.sah, h.sal, h.rch, h.rcl]

/-- `startAddress = sah·256 + sal`, as a host composes it (R44). The engine itself never does. -/
def startAddress (h : Hdr) : Half := h.sah ++ h.sal

/-- `registerCount = rch·256 + rcl`, as a host composes it (R44). -/
def registerCount (h : Hdr) : Half := h.rch ++ h.rcl

/-- The host-side edit `flip(seq, i, b)`: bit `b` of byte `i` inverted (R68). No command of the engine. -/
def flipBit (s : List Byte) (i b : Nat) : List Byte := s.modify i (fun x => x ^^^ (1#8 <<< b))

end Sys2Proof.Machine
end

