-- ==== Sys2Proof/Machine/Ops.lean ====
section
/-! DEFINITION. The operations every command shares: how a command ends (delivering a result, taking a fault), and
reset. -/

namespace Sys2Proof.Machine

/-- The free values the transient registers hold once a command has ended (R26, I6; log 5). -/
def deadRegs (n : Nat) : Datapath :=
  { crc := Config.deadCrc n
    bitk := Config.deadBitk n
    idx := Config.deadIdx n
    acc := Config.deadAcc n
    psh := Config.deadPsh n
    pcnt := Config.deadPcnt n
    out := Config.deadOut n }

/-- A command ends: the engine is Idle, nothing is in flight, the transient registers are dead (R21, R26). -/
def retire (s : State) : State :=
  { s with phase := .idle, inflight := none, regs := deadRegs s.draws, draws := s.draws + 1 }

/-- Return a result to the host (R201). Results stand in issue order (R52, R237). -/
def deliver (r : Res) (s : State) : State :=
  { s with results := s.results ++ [r] }

/-- TAKING A FAULT (R209): one record is appended to the fault log, no result is returned, the engine is Idle, and no
other state changes. There is no vector, no saved register and no return from it (R210, R211). -/
def raiseFault (op : Byte) (k : FaultKind) (s : State) : State :=
  { s with phase := .idle, inflight := none, faultLog := s.faultLog ++ [⟨op, k⟩] }

/-- The end of a command: with its result, or with its fault (R201). -/
def endCommand (op : Byte) (e : Except FaultKind Res) (s : State) : State :=
  match e with
  | .ok r => deliver r (retire s)
  | .error k => raiseFault op k (retire s)

/-- Reset (R230, R34): Idle, an empty log, the command in flight abandoned without result or record. Results already
delivered stay; the parameters and what the host still does are not the engine's to change (log 12). -/
def resetEngine (s : State) : State :=
  { s with phase := .idle, faultLog := [], inflight := none, regs := Datapath.reset }

end Sys2Proof.Machine
end

