-- ==== Sys2Proof/Machine/AsciiCodec.lean ====
section
/-! DEFINITION. AsciiCodec: BIN2ASCII (40_ascii_codec.md). -/

namespace Sys2Proof.Machine

/-- The result of BIN2ASCII (R100). -/
def bin2asciiRes (v : Byte) : Res :=
  if v.getLsbD 7 then ⟨0x01#8, .notAscii, .absent⟩
  else if (0x30#8 ≤ v ∧ v ≤ 0x39#8) ∨ (0x41#8 ≤ v ∧ v ≤ 0x46#8) then ⟨0x01#8, .ok, .ch v⟩
  else ⟨0x01#8, .outOfHexRange, .absent⟩

/-- BIN2ASCII (R100, R102). -/
def execBin2ascii (v : Byte) (s : State) : Host.Outcome State Fault Refusal :=
  .next (endCommand 0x01#8 (.ok (bin2asciiRes v)) s)

end Sys2Proof.Machine
end

