-- ==== Sys2Proof/Machine/ErrorDetection.lean ====
section
/-! DEFINITION. ErrorDetection: PARITY8, CRC16 and LRC (41_error_detection.md). -/

namespace Sys2Proof.Machine

/-- One iteration of PARITY_LOOP on `psh` and `pcnt`: count the top bit, shift left (R111). -/
def parityStep (p : Byte × BitVec 4) : Byte × BitVec 4 :=
  (p.1 <<< 1, if p.1.getLsbD 7 then p.2 + 1#4 else p.2)

/-- `pcnt` after PARITY_LOOP's 8 iterations (R111). -/
def parityCount (v : Byte) : BitVec 4 := (parityStep^[8] (v, 0#4)).2

/-- The result of PARITY8 from the count: `pcnt mod 2`, its bit 0 (R110, R111). -/
def parityRes (pcnt : BitVec 4) : Res := ⟨0x02#8, .ok, .bit (pcnt.extractLsb' 0 1)⟩

/-- PARITY8 (R110). -/
def execParity8 (v : Byte) (s : State) : Host.Outcome State Fault Refusal :=
  .next (endCommand 0x02#8 (.ok (parityRes (parityCount v))) s)

/-- `CRC_INIT` (R9, R25). -/
def crcInit : Half := 0xFFFF#16

/-- `CRC_POLY`, the feedback constant (R9, R25). -/
def crcPoly : Half := 0xA001#16

/-- CRC_BIT (R115): the test is made on bit 0 before the shift. -/
def crcBit (c : Half) : Half := if c.getLsbD 0 then (c >>> 1) ^^^ crcPoly else c >>> 1

/-- The byte enters the low half of the register (R114). -/
def crcXor (c : Half) (b : Byte) : Half := c ^^^ b.zeroExtend 16

/-- CRC_BYTE (R114). -/
def crcByte (c : Half) (b : Byte) : Half := crcBit^[8] (crcXor c b)

/-- CRC_CORE (R113), shared with BUILD and RECEIVE. -/
def crcCore (s : List Byte) : Half := s.foldl crcByte crcInit

/-- The result of CRC16 from the final register, low byte and high byte (R113). -/
def crcRes (r : Half) : Res := ⟨0x03#8, .ok, .crc (lowByte r) (highByte r)⟩

/-- CRC16 (R113). -/
def execCrc16 (s : List Byte) (st : State) : Host.Outcome State Fault Refusal :=
  .next (endCommand 0x03#8 (.ok (crcRes (crcCore s))) st)

/-- LRC_ADD (R120). -/
def lrcAdd (a b : Byte) : Byte := a + b

/-- LRC_NEG, complement plus one (R121). -/
def lrcNeg (a : Byte) : Byte := ~~~a + 1#8

/-- `acc` after LRC's loop (R119). -/
def lrcSum (s : List Byte) : Byte := s.foldl lrcAdd 0x00#8

/-- NIB (R122). -/
def nib (d : BitVec 4) : Byte :=
  if d ≤ 9#4 then 0x30#8 + d.zeroExtend 8 else 0x41#8 + (d.zeroExtend 8 - 10#8)

/-- HEX2, high nibble first (R122, R46). -/
def hex2 (v : Byte) : List Byte := [nib (highNibble v), nib (lowNibble v)]

/-- The result of LRC from the sum (R119). -/
def lrcRes (acc : Byte) : Res := ⟨0x04#8, .ok, .lrc (lrcNeg acc) (hex2 (lrcNeg acc))⟩

/-- LRC (R119). -/
def execLrc (s : List Byte) (st : State) : Host.Outcome State Fault Refusal :=
  .next (endCommand 0x04#8 (.ok (lrcRes (lrcSum s))) st)

end Sys2Proof.Machine
end

