-- ==== Sys2Proof/Machine/RtuFrame.lean ====
section
/-! DEFINITION. RtuFrame: BUILD, DUMP and RECEIVE (42_rtu_frame.md). -/

namespace Sys2Proof.Machine

/-- The frame of a record and a CRC register: the six bytes, CRC low, CRC high (R151, R69). -/
def frameOf (h : Hdr) (r : Half) : List Byte := hdrBytes h ++ crcBytes r

/-- BUILD's frame (R151). -/
def buildFrame (h : Hdr) : List Byte := frameOf h (crcCore (hdrBytes h))

/-- The result of BUILD (R151). -/
def buildRes (frame : List Byte) : Res := ⟨0x05#8, .ok, .frame frame⟩

/-- BUILD (R151). -/
def execBuild (h : Hdr) (s : State) : Host.Outcome State Fault Refusal :=
  .next (endCommand 0x05#8 (.ok (buildRes (buildFrame h))) s)

/-- ", " (R153). PRESUMED codes of general knowledge, marked so by R67 (G1; log 11). -/
def dumpSep : List Byte := [0x2C#8, 0x20#8]

/-- "0x" and the two digits of a byte (R153; log 11 for the code of 'x'). -/
def dumpElem (b : Byte) : List Byte := [0x30#8, 0x78#8] ++ hex2 b

/-- What DUMP's loop appends for element `idx` (R153). -/
def dumpPiece (idx : Nat) (b : Byte) : List Byte := (if idx > 0 then dumpSep else []) ++ dumpElem b

/-- DUMP's loop from element `idx` on (R153). -/
def dumpFrom (idx : Nat) : List Byte → List Byte
  | [] => []
  | b :: rest => dumpPiece idx b ++ dumpFrom (idx + 1) rest

/-- DUMP's text (R153, R154). -/
def dumpText (s : List Byte) : List Byte := dumpFrom 0 s

/-- The result of DUMP (R153). -/
def dumpRes (text : List Byte) : Res := ⟨0x06#8, .ok, .text text⟩

/-- DUMP (R153). -/
def execDump (s : List Byte) (st : State) : Host.Outcome State Fault Refusal :=
  .next (endCommand 0x06#8 (.ok (dumpRes (dumpText s))) st)

/-- Does the checksum zone of `s` hold the CRC `r`, low byte then high byte (R157)? -/
def checksumMatches (s : List Byte) (r : Half) : Bool :=
  readIn s (s.length - 2) == some (lowByte r) && readIn s (s.length - 1) == some (highByte r)

/-- RECEIVE's result with a status, carrying both signals (R159). -/
def receiveRes (st : Status) : Res := ⟨0x07#8, st, .ok (okBit st)⟩

/-- How RECEIVE ends, `r` being the CRC of the payload zone: the size check, then ShortFrame, then the integrity check
(R155, R212). -/
def receiveEnd (s : List Byte) (n : Int) (r : Half) : Except FaultKind Res :=
  if (s.length : Int) ≠ n then .ok (receiveRes .sizeMismatch)
  else if s.length < 2 then .error .shortFrame
  else if checksumMatches s r then .ok (receiveRes .ok)
  else .ok (receiveRes .checksumMismatch)

/-- RECEIVE (R155). -/
def execReceive (s : List Byte) (n : Int) (st : State) : Host.Outcome State Fault Refusal :=
  .next (endCommand 0x07#8 (receiveEnd s n (crcCore (payloadZone s))) st)

end Sys2Proof.Machine
end

