-- ==== Sys2Proof/Machine/Dispatch.lean ====
section
/-! DEFINITION. One arm per command (30_encoding.md R61). -/

namespace Sys2Proof.Machine

def exec (i : Instr) (s : State) : Host.Outcome State Fault Refusal :=
  match i with
  | .bin2ascii v => Sys2Proof.Machine.execBin2ascii v s
  | .parity8 v => Sys2Proof.Machine.execParity8 v s
  | .crc16 b => Sys2Proof.Machine.execCrc16 b s
  | .lrc b => Sys2Proof.Machine.execLrc b s
  | .build h => Sys2Proof.Machine.execBuild h s
  | .dump b => Sys2Proof.Machine.execDump b s
  | .receive b n => Sys2Proof.Machine.execReceive b n s

end Sys2Proof.Machine
end

