-- ==== Sys2Proof/Machine/Micro.lean ====
section
/-! DEFINITION. The micro-step refinement (10_state.md R27) over the transient registers of R26: what a command writes
at its start, what one iteration does, and how a command ends. -/

namespace Sys2Proof.Machine

/-- The start values a command writes (R26, column "value at command start"), for the registers it uses. DESIGN CHOICE
(log 16): a register the command does not use keeps its old value, where R34 and I6 leave it unspecified. -/
def startRegs (i : Instr) (d : Datapath) : Datapath :=
  match i with
  | .bin2ascii _ => d
  | .parity8 v => { d with psh := v, pcnt := 0#4 }
  | .crc16 _ => { d with crc := crcInit, bitk := 0#4, idx := 0 }
  | .lrc _ => { d with idx := 0, acc := 0x00#8, out := [] }
  | .build _ => { d with crc := crcInit, bitk := 0#4, idx := 0, out := [] }
  | .dump _ => { d with idx := 0, out := [] }
  | .receive _ _ => { d with crc := crcInit, bitk := 0#4, idx := 0 }

/-- The number of iterations of a command (R235). A RECEIVE that does not reach step 2 has none. -/
def iterations : Instr → Nat
  | .bin2ascii _ => 0
  | .parity8 _ => 8
  | .crc16 s => 8 * s.length
  | .lrc s => s.length
  | .build _ => 48
  | .dump s => s.length
  | .receive s n => if (s.length : Int) = n ∧ 2 ≤ s.length then 8 * (s.length - 2) else 0

/-- One CRC bit iteration over the bytes `p` (R113–R115): the byte enters the register at `bitk = 0`; after the eighth
iteration the next byte is due. -/
def crcIteration (p : List Byte) (d : Datapath) : Datapath :=
  match readIn p d.idx with
  | none => d
  | some b =>
    let c := if d.bitk = 0#4 then crcXor d.crc b else d.crc
    if d.bitk = 7#4 then { d with crc := crcBit c, bitk := 0#4, idx := d.idx + 1 }
    else { d with crc := crcBit c, bitk := d.bitk + 1#4 }

/-- One addition of LRC (R119, R120). -/
def lrcIteration (p : List Byte) (d : Datapath) : Datapath :=
  match readIn p d.idx with
  | none => d
  | some b => { d with acc := lrcAdd d.acc b, idx := d.idx + 1 }

/-- One element of DUMP (R153). -/
def dumpIteration (p : List Byte) (d : Datapath) : Datapath :=
  match readIn p d.idx with
  | none => d
  | some b => { d with out := d.out ++ dumpPiece d.idx b, idx := d.idx + 1 }

/-- One iteration of PARITY_LOOP (R111). -/
def parityIteration (d : Datapath) : Datapath :=
  { d with psh := (parityStep (d.psh, d.pcnt)).1, pcnt := (parityStep (d.psh, d.pcnt)).2 }

/-- One iteration of a command (R27). DESIGN CHOICE (log 16): a register the command does not use keeps its old value,
where R34 and I6 leave it unspecified. -/
def iteration (i : Instr) (d : Datapath) : Datapath :=
  match i with
  | .bin2ascii _ => d
  | .parity8 _ => parityIteration d
  | .crc16 s => crcIteration s d
  | .lrc s => lrcIteration s d
  | .build h => crcIteration (hdrBytes h) d
  | .dump s => dumpIteration s d
  | .receive s _ => crcIteration (payloadZone s) d

/-- How a command ends, read from its registers after its last iteration. -/
def endFromRegs (i : Instr) (d : Datapath) : Except FaultKind Res :=
  match i with
  | .bin2ascii v => .ok (bin2asciiRes v)
  | .parity8 _ => .ok (parityRes d.pcnt)
  | .crc16 _ => .ok (crcRes d.crc)
  | .lrc _ => .ok (lrcRes d.acc)
  | .build h => .ok (buildRes (frameOf h d.crc))
  | .dump _ => .ok (dumpRes d.out)
  | .receive s n => receiveEnd s n d.crc

/-- The first micro-step of a command: `phase <- Busy`, and the start values are written (R27, R26). -/
def beginCommand (i : Instr) (s : State) : State :=
  { s with phase := .busy, inflight := some ⟨i, iterations i⟩, regs := startRegs i s.regs }

/-- A micro-step of a Busy engine (R27): one iteration, or the end of the command when none is left (log 8). -/
def busyStep (s : State) : Host.Outcome State Fault Refusal :=
  match s.inflight with
  | none => .fault .busyWithoutCommand
  | some f =>
    match f.left with
    | 0 => .next (endCommand (opOf f.instr) (endFromRegs f.instr s.regs) s)
    | k + 1 => .next { s with inflight := some ⟨f.instr, k⟩, regs := iteration f.instr s.regs }

end Sys2Proof.Machine
end

