-- ==== Sys2Proof/Machine/Engine.lean ====
section
/-! DEFINITION. The engine at the host's next action: a reset, a command (performed whole, or accepted by the micro-step
view), or none (10_state.md R20, R27; 70_reset_and_hazards.md R230, R234). -/

namespace Sys2Proof.Machine

/-- Perform a command whole (R20): decode it, then its meaning; a command that does not decode takes its fault (R62). -/
def perform (c : Cmd) (s : State) : Host.Outcome State Fault Refusal :=
  match decode s.config.maxSeqLen c with
  | .ok i => exec i s
  | .error k => .next (raiseFault c.op k s)

/-- Accept a command in the micro-step view (R27): decode it, then begin it. -/
def accept (c : Cmd) (s : State) : Host.Outcome State Fault Refusal :=
  match decode s.config.maxSeqLen c with
  | .ok i => .next (beginCommand i s)
  | .error k => .next (raiseFault c.op k s)

/-- A step without a command of the host: an Idle engine does nothing (R20, R219; log 7), a Busy one goes on. -/
def advance (s : State) : Host.Outcome State Fault Refusal :=
  match s.phase with
  | .idle => .next s
  | .busy => busyStep s

/-- One step at the host's next action. Reset is taken at any time (R230). A command is taken only while Idle: while
Busy the host is held (R234). -/
def stepWith (take : Cmd → State → Host.Outcome State Fault Refusal) (s : State) :
    Host.Outcome State Fault Refusal :=
  match s.host with
  | [] => advance s
  | .reset :: rest => .next (resetEngine { s with host := rest })
  | .wait :: rest => advance { s with host := rest }
  | .issue c :: rest =>
    match s.phase with
    | .idle => take c { s with host := rest }
    | .busy => advance s

/-- One step of the micro-step view (R27). -/
def microStep (s : State) : Host.Outcome State Fault Refusal := stepWith accept s

/-- `k` steps of the micro-step view, stopping at a fault or refusal. -/
def microRun : Nat → State → Host.Outcome State Fault Refusal
  | 0, s => .next s
  | k + 1, s =>
    match microStep s with
    | .next t => microRun k t
    | .fault r => .fault r
    | .refused r => .refused r

end Sys2Proof.Machine
end

