-- ==== Sys2Proof/Machine/Step.lean ====
section
/-! DEFINITION. One step of the machine, in the atomic view (10_state.md R20), and the host's placing of a command. -/

namespace Sys2Proof.Machine

/-- One step: the host's next action, a command being performed whole (R20). -/
def step (s : State) : Host.Outcome State Fault Refusal := stepWith perform s

/-- `s` with the command of a table word as the host's next action, and the engine Idle to take it (log 1, log 10). -/
def State.withFetchWord (s : State) (nbits w : Nat) : State :=
  { s with phase := .idle, inflight := none, host := .issue (tableCmd nbits w) :: s.host }

end Sys2Proof.Machine
end

