-- ==== Sys2Proof/Machine/System.lean ====
section
/-! DEFINITION. Several engine instances beside each other (60_exceptions.md R217): each has a state of its own. -/

namespace Sys2Proof.Machine

/-- Any number of engine instances (R217). -/
structure System where
  engines : List State
  deriving DecidableEq, Repr

/-- A step of instance `k` (log 14: which instance steps is the caller's choice). Where there is no instance `k`,
nothing happens. -/
def stepInstance (k : Nat) (y : System) : Host.Outcome System Fault Refusal :=
  match y.engines[k]? with
  | none => .next y
  | some s =>
    match step s with
    | .next t => .next ⟨y.engines.set k t⟩
    | .fault r => .fault r
    | .refused r => .refused r

end Sys2Proof.Machine
end

