-- ==== Sys2Proof/Safety.lean ====
section
/-! DEFINITION. What counts as a right result, a right fault record and a safe state, in the terms the statements use.
The reference functions here are written from the spec's prose, apart from the functions the machine runs. -/

namespace Sys2Proof.Safety

open Sys2Proof.Machine

/-- The machine goes on: neither a fault nor a refusal of the model. -/
def GoesOn (o : Host.Outcome State Fault Refusal) : Prop := ∃ t, o = .next t

/-! ### Reference functions -/

/-- The number of 1-bits of a byte (R110, R112). -/
def bitCount (v : Byte) : Nat := (List.range 8).countP (fun k => v.getLsbD k)

/-- The sum of the bytes as numbers, before any wrap (R119, R120). -/
def byteSum (s : List Byte) : Nat := (s.map BitVec.toNat).sum

/-- The sixteen characters the block renders with, '0'–'9' and 'A'–'F' (R67). -/
def hexDigits : List Byte :=
  [0x30#8, 0x31#8, 0x32#8, 0x33#8, 0x34#8, 0x35#8, 0x36#8, 0x37#8, 0x38#8, 0x39#8] ++
    [0x41#8, 0x42#8, 0x43#8, 0x44#8, 0x45#8, 0x46#8]

/-- The character of a digit value (R122). -/
def digitOf (n : Nat) : Byte := hexDigits.getD n 0x00#8

/-- Two uppercase characters, high digit first, zero-padded (R46, R122). -/
def twoDigits (v : Byte) : List Byte := [digitOf (v.toNat / 16), digitOf (v.toNat % 16)]

/-- "Renders each byte as `0xHH`" (R153). -/
def hexElement (v : Byte) : List Byte := [0x30#8, 0x78#8] ++ twoDigits v

/-- The elements "joined by `, `" (R153). -/
def joinedDump (s : List Byte) : List Byte := List.intercalate [0x2C#8, 0x20#8] (s.map hexElement)

/-- The bits of a byte in the order they enter the division, bit 0 first (R45). -/
def bitsLsbFirst (v : Byte) : List Bool := (List.range 8).map (fun k => v.getLsbD k)

/-- The division by one message bit: the bit meets bit 0 of the right-shifting register (R45, R116). -/
def serialBit (c : Half) (b : Bool) : Half :=
  if xor (c.getLsbD 0) b then (c >>> 1) ^^^ 0xA001#16 else c >>> 1

/-- The CRC of a sequence, one message bit at a time (R45, R116). -/
def serialCrc (s : List Byte) : Half := (s.flatMap bitsLsbFirst).foldl serialBit 0xFFFF#16

/-- The CRC by the loops of R113, R114 and R115, written out: start value 0xFFFF; each byte XORed into the low byte, then
eight times a right shift, with 0xA001 XORed in when the bit shifted out is 1. -/
def ruleCrc (s : List Byte) : Half :=
  s.foldl
    (fun c b =>
      (fun r : Half => if r.getLsbD 0 then (r >>> 1) ^^^ 0xA001#16 else r >>> 1)^[8]
        (c ^^^ BitVec.ofNat 16 b.toNat))
    0xFFFF#16

/-- The length of the sequence an operand carries; `none` for the shapes that carry none (R60, R62). -/
def carriedLen : Operand → Option Nat
  | .oByte _ => none
  | .oSeq s => some s.length
  | .oHdr _ => none
  | .oRecv s _ => some s.length

/-- Is the operand's sequence longer than the bound (R62, R208)? -/
def TooLong (maxLen : Option Nat) (o : Operand) : Prop :=
  ∃ m n, maxLen = some m ∧ carriedLen o = some n ∧ m < n

/-- The frame invariant of R30: the checksum zone is the CRC16 of the payload zone, low byte first. -/
def FrameOk (s : List Byte) : Prop :=
  2 ≤ s.length ∧
    s.drop (s.length - 2) =
      [lowByte (crcCore (s.take (s.length - 2))), highByte (crcCore (s.take (s.length - 2)))]

/-! ### What one command does to a state -/

/-- `t` is `s` after one command that ended with result `r`: the result is delivered and, the dead transient registers
apart (R26), nothing else has changed; the engine is Idle (R201). -/
def DeliversOnly (s t : State) (r : Res) : Prop :=
  t.results = s.results ++ [r] ∧ t.faultLog = s.faultLog ∧ t.phase = .idle ∧ t.inflight = none ∧
    t.config = s.config ∧ t.host = s.host

/-- `t` is `s` after a command that ended with a fault: one record is added and, the dead transient registers apart,
nothing else has changed; no result (R201, R209). -/
def FaultsOnly (s t : State) (f : FaultRecord) : Prop :=
  t.faultLog = s.faultLog ++ [f] ∧ t.results = s.results ∧ t.phase = .idle ∧ t.inflight = none ∧
    t.config = s.config ∧ t.host = s.host

/-- The host's next action, if any, is to issue a command: no reset is raised and no step is passed over. -/
def HostOnlyIssues (h : List HostEvent) : Prop := ∀ e ∈ h.head?, ∃ c, e = .issue c

/-! ### Right results and right records -/

/-- A character the block emits (R67). -/
def Emitted (c : Byte) : Prop := c ∈ hexDigits ∨ c = 0x78#8 ∨ c = 0x2C#8 ∨ c = 0x20#8

/-- A result has the status and the fields that R66 gives its command, and what R67, R122, R152 and R159 say of them. -/
def ResOk (r : Res) : Prop :=
  match r.fields with
  | .absent => r.op = 0x01#8 ∧ (r.status = .notAscii ∨ r.status = .outOfHexRange)
  | .ch c => r.op = 0x01#8 ∧ r.status = .ok ∧ c ∈ hexDigits
  | .bit _ => r.op = 0x02#8 ∧ r.status = .ok
  | .crc _ _ => r.op = 0x03#8 ∧ r.status = .ok
  | .lrc l a => r.op = 0x04#8 ∧ r.status = .ok ∧ a = twoDigits l
  | .frame f => r.op = 0x05#8 ∧ r.status = .ok ∧ f.length = 8 ∧ FrameOk f
  | .text t => r.op = 0x06#8 ∧ r.status = .ok ∧ ∀ c ∈ t, Emitted c
  | .ok b =>
    r.op = 0x07#8 ∧ (r.status = .ok ∨ r.status = .sizeMismatch ∨ r.status = .checksumMismatch) ∧
      (b = 1#1 ↔ r.status = .ok)

/-- A fault record says what R206, R207 and R208 allow: ShortFrame is RECEIVE's alone, OperandTooLong needs a bound and a
command that carries a sequence. -/
def RecordOk (c : Config) (f : FaultRecord) : Prop :=
  match f.kind with
  | .illegalCommand => True
  | .shortFrame => f.op = 0x07#8
  | .operandTooLong => c.maxSeqLen ≠ none ∧ (opFormat f.op = some .seq ∨ opFormat f.op = some .recv)

/-! ### The state's invariant -/

/-- The CRC register after `k` bit iterations over `p`: whole bytes are folded in, and the byte under way has entered
and been shifted `k mod 8` times (R113–R115). -/
def crcAfter (p : List Byte) (k : Nat) : Half :=
  match k % 8, p[k / 8]? with
  | 0, _ => crcCore (p.take (k / 8))
  | _ + 1, none => crcCore (p.take (k / 8))
  | j + 1, some b => crcBit^[j + 1] (crcXor (crcCore (p.take (k / 8))) b)

/-- `crc`, `bitk` and `idx` after `k` bit iterations over `p`. -/
def CrcLoop (p : List Byte) (k : Nat) (d : Datapath) : Prop :=
  d.idx = k / 8 ∧ d.bitk.toNat = k % 8 ∧ d.crc = crcAfter p k

/-- What the transient registers of a command hold after `k` of its iterations (R26, R111, R113, R119, R153). -/
def LoopOk (i : Instr) (k : Nat) (d : Datapath) : Prop :=
  match i with
  | .bin2ascii _ => True
  | .parity8 v => d.psh = v <<< k ∧ d.pcnt.toNat = (List.range k).countP (fun j => v.getLsbD (7 - j))
  | .crc16 s => CrcLoop s k d
  | .lrc s => d.idx = k ∧ d.acc.toNat = byteSum (s.take k) % 256 ∧ d.out = []
  | .build h => CrcLoop (hdrBytes h) k d ∧ d.out = []
  | .dump s => d.idx = k ∧ d.out = joinedDump (s.take k)
  | .receive s _ => CrcLoop (s.take (s.length - 2)) k d

/-- Idle exactly when nothing is in flight (R21, R34); a command in flight has decoded, has no more iterations left than
it has in all (R235), and its registers hold the partial result. -/
def EngineInv (s : State) : Prop :=
  match s.phase, s.inflight with
  | .idle, none => True
  | .busy, some f =>
    f.instr.wf s.config.maxSeqLen = true ∧ f.left ≤ iterations f.instr ∧
      LoopOk f.instr (iterations f.instr - f.left) s.regs
  | .idle, some _ => False
  | .busy, none => False

/-- The invariant of an engine instance: its registers are in step with its command, and everything it has delivered or
logged is right. -/
def StateInv (s : State) : Prop :=
  EngineInv s ∧ (∀ r ∈ s.results, ResOk r) ∧ ∀ f ∈ s.faultLog, RecordOk s.config f

/-! ### The observable outcome of a run -/

/-- What a command answers, as a function of its operation and operands alone (R32). -/
def answerOf : Instr → Except FaultKind Res
  | .bin2ascii v => .ok (bin2asciiRes v)
  | .parity8 v => .ok (parityRes (parityCount v))
  | .crc16 s => .ok (crcRes (crcCore s))
  | .lrc s => .ok (lrcRes (lrcSum s))
  | .build h => .ok (buildRes (buildFrame h))
  | .dump s => .ok (dumpRes (dumpText s))
  | .receive s n => receiveEnd s n (crcCore (payloadZone s))

/-- The result a command as issued leaves, if it leaves one. -/
def resultOf (maxLen : Option Nat) (c : Cmd) : Option Res :=
  match decode maxLen c with
  | .error _ => none
  | .ok i =>
    match answerOf i with
    | .ok r => some r
    | .error _ => none

/-- The fault record a command as issued leaves, if it leaves one (R209). -/
def recordOf (maxLen : Option Nat) (c : Cmd) : Option FaultRecord :=
  match decode maxLen c with
  | .error k => some ⟨c.op, k⟩
  | .ok i =>
    match answerOf i with
    | .ok _ => none
    | .error k => some ⟨c.op, k⟩

end Sys2Proof.Safety
end

