-- ==== Sys2Proof/Certificates/Slice0/Obligations.lean ====
section
/-! DEFINITION. The statements for the provers. -/

open Sys2Proof Sys2Proof.Machine Sys2Proof.Safety

/-! ### Encoding and decoding -/

/-- R61: commands written out from the command map decode to the operation they stand for. -/
def Obligations.WordsOfTheCommandMapDecode : Prop :=
  decode none ⟨0x01#8, .oByte 0x41#8⟩ = .ok (.bin2ascii 0x41#8) ∧
  decode none ⟨0x02#8, .oByte 0x7B#8⟩ = .ok (.parity8 0x7B#8) ∧
  decode none ⟨0x03#8, .oSeq [0x01#8, 0x04#8]⟩ = .ok (.crc16 [0x01#8, 0x04#8]) ∧
  decode none ⟨0x04#8, .oSeq [0x01#8]⟩ = .ok (.lrc [0x01#8]) ∧
  decode none ⟨0x05#8, .oHdr ⟨0x01#8, 0x04#8, 0x00#8, 0x02#8, 0x00#8, 0x03#8⟩⟩ =
    .ok (.build ⟨0x01#8, 0x04#8, 0x00#8, 0x02#8, 0x00#8, 0x03#8⟩) ∧
  decode none ⟨0x06#8, .oSeq [0x0A#8, 0xFF#8]⟩ = .ok (.dump [0x0A#8, 0xFF#8]) ∧
  decode none ⟨0x07#8, .oRecv [0xFF#8, 0xFF#8] (-2)⟩ = .ok (.receive [0xFF#8, 0xFF#8] (-2))

/-- R60, R61: decode and encode agree, in both directions: a command decodes to `i` exactly when it is the encoding of
`i` and `i` is within the length bound. -/
def Obligations.DecodeIsTheInverseOfEncode : Prop :=
  ∀ (m : Option Nat) (c : Cmd) (i : Instr), decode m c = .ok i ↔ (encode i = c ∧ i.wf m = true)

/-- R62, R63, R206, R208, R212: what decoding answers for every command: IllegalCommand for a reserved code or a wrong
shape, then OperandTooLong, then the operation the code stands for with the operand as given. -/
def Obligations.DecodeIsTotalAndRejectsByName : Prop :=
  (∀ op : Byte, opFormat op = none ↔ (op.toNat = 0 ∨ 8 ≤ op.toNat)) ∧
  ∀ (m : Option Nat) (c : Cmd),
    (opFormat c.op ≠ some (operandFormat c.operand) → decode m c = .error .illegalCommand) ∧
    (opFormat c.op = some (operandFormat c.operand) → TooLong m c.operand →
      decode m c = .error .operandTooLong) ∧
    (opFormat c.op = some (operandFormat c.operand) → ¬ TooLong m c.operand →
      ∃ i, decode m c = .ok i ∧ opOf i = c.op ∧ operandOf i = c.operand)

/-! ### The step -/

/-- R62: a step of an Idle engine whose host issues a command that decodes is that command's meaning, in the state in
which the host has issued it. -/
def Obligations.StepRunsTheDecodedCommand : Prop :=
  ∀ (s : State) (c : Cmd) (rest : List HostEvent) (i : Instr), s.phase = .idle →
    s.host = .issue c :: rest → decode s.config.maxSeqLen c = .ok i →
    step s = exec i { s with host := rest }

/-- Derived from R206 and R209: a command with a reserved code or a wrong operand shape takes IllegalCommand: its record
is appended, and nothing else changes. In both views. The model's choice are two clauses of it: that the dead transient
registers and the draw counter stay as they are (log 5; I6 gives the registers any value), and that the micro-step view
takes the fault in one step (log 8). -/
def Obligations.IllegalCommandTakesItsFault : Prop :=
  ∀ (s : State) (c : Cmd) (rest : List HostEvent), s.phase = .idle → s.inflight = none →
    s.host = .issue c :: rest → opFormat c.op ≠ some (operandFormat c.operand) →
    step s = .next { s with host := rest, faultLog := s.faultLog ++ [⟨c.op, .illegalCommand⟩] } ∧
    microStep s = .next { s with host := rest, faultLog := s.faultLog ++ [⟨c.op, .illegalCommand⟩] }

/-- Derived from R208 and R209: a command of a legal form whose sequence is longer than `maxSeqLen` takes OperandTooLong:
its record is appended, and nothing else changes. In both views. With no bound it never occurs. The model's choice are two
clauses of it: that the dead transient registers and the draw counter stay as they are (log 5), and that the micro-step
view takes the fault in one step (log 8). -/
def Obligations.OverlongOperandTakesItsFault : Prop :=
  (∀ (s : State) (c : Cmd) (rest : List HostEvent), s.phase = .idle → s.inflight = none →
    s.host = .issue c :: rest → opFormat c.op = some (operandFormat c.operand) →
    TooLong s.config.maxSeqLen c.operand →
    step s = .next { s with host := rest, faultLog := s.faultLog ++ [⟨c.op, .operandTooLong⟩] } ∧
    microStep s = .next { s with host := rest, faultLog := s.faultLog ++ [⟨c.op, .operandTooLong⟩] }) ∧
  ∀ c : Cmd, decode none c ≠ .error .operandTooLong

/-- R201, R66: a command performed from Idle ends in exactly one of two ways, a result that echoes its `op`, or one
fault record with its `op` and no result. It is taken from the host; the parameters stay; the engine is Idle. -/
def Obligations.CommandGivesOneResultOrOneFault : Prop :=
  ∀ (s : State) (c : Cmd) (rest : List HostEvent), s.phase = .idle → s.host = .issue c :: rest →
    ∃ t, step s = .next t ∧ t.host = rest ∧
      ((∃ r, r.op = c.op ∧ DeliversOnly { s with host := rest } t r) ∨
        ∃ k, FaultsOnly { s with host := rest } t ⟨c.op, k⟩)

/-! ### BIN2ASCII -/

/-- R101, R202, R203: BIN2ASCII completes on every byte, with the class that R101's table gives it, and nothing else
changes; exactly 16 of the 256 bytes succeed. -/
def Obligations.Bin2asciiClassifiesEveryByte : Prop :=
  (∀ (v : Byte) (s : State), ∃ t, exec (.bin2ascii v) s = .next t ∧
    DeliversOnly s t
      (if v.toNat ≤ 0x2F then ⟨0x01#8, .outOfHexRange, .absent⟩
      else if v.toNat ≤ 0x39 then ⟨0x01#8, .ok, .ch v⟩
      else if v.toNat ≤ 0x40 then ⟨0x01#8, .outOfHexRange, .absent⟩
      else if v.toNat ≤ 0x46 then ⟨0x01#8, .ok, .ch v⟩
      else if v.toNat ≤ 0x7F then ⟨0x01#8, .outOfHexRange, .absent⟩
      else ⟨0x01#8, .notAscii, .absent⟩)) ∧
  (List.range 256).countP (fun n => (bin2asciiRes (BitVec.ofNat 8 n)).status == .ok) = 16

/-! ### PARITY8 -/

/-- R112: PARITY8 completes on every byte with the number of its 1-bits mod 2; nothing else changes. -/
def Obligations.Parity8CountsTheOneBits : Prop :=
  ∀ (v : Byte) (s : State), ∃ t b, exec (.parity8 v) s = .next t ∧
    DeliversOnly s t ⟨0x02#8, .ok, .bit b⟩ ∧ b.toNat = bitCount v % 2

/-- R111: after the 8 iterations `psh` is 0x00 and `pcnt` the number of 1-bits. -/
def Obligations.ParityLoopEndsWithTheCount : Prop :=
  ∀ v : Byte, parityStep^[8] (v, 0#4) = (0x00#8, BitVec.ofNat 4 (bitCount v))

/-! ### CRC16 -/

/-- R113, R114: CRC16 completes on every sequence, the empty one included, with the low byte and the high byte of the
register that those rules' loops leave; nothing else changes. -/
def Obligations.Crc16DeliversTheRegisterLowByteFirst : Prop :=
  ∀ (p : List Byte) (s : State), ∃ t lo hi, exec (.crc16 p) s = .next t ∧
    DeliversOnly s t ⟨0x03#8, .ok, .crc lo hi⟩ ∧
    lo.toNat = (ruleCrc p).toNat % 256 ∧ hi.toNat = (ruleCrc p).toNat / 256

/-- R115, bit by bit: bit k of the result is bit k+1 of the register, inverted when the register's bit 0 was 1 and bit k
of 0xA001 is 1; a 0 is shifted into bit 15. -/
def Obligations.CrcBitShiftsRightAndFeedsBack : Prop :=
  ∀ (c : Half) (k : Nat), k < 16 →
    (crcBit c).getLsbD k = xor (c.getLsbD (k + 1)) (c.getLsbD 0 && (0xA001#16).getLsbD k)

/-- R45: the CRC is the division that takes the message one bit at a time, bit 0 of each byte first. -/
def Obligations.CrcIsTheBitSerialDivision : Prop :=
  ∀ p : List Byte, crcCore p = serialCrc p

/-- R117: CRC16 of the empty sequence delivers the two bytes of 0xFFFF unchanged. -/
def Obligations.Crc16OfNothingIsTheInitialRegister : Prop :=
  ∀ s : State, ∃ t, exec (.crc16 []) s = .next t ∧
    DeliversOnly s t ⟨0x03#8, .ok, .crc 0xFF#8 0xFF#8⟩

/-- R118 (a): the CRC over a sequence with its own CRC appended, low byte first, is zero. -/
def Obligations.CrcResidueIsZero : Prop :=
  ∀ (p : List Byte) (s : State), ∃ t lo hi, exec (.crc16 p) s = .next t ∧
    DeliversOnly s t ⟨0x03#8, .ok, .crc lo hi⟩ ∧ crcCore (p ++ [lo, hi]) = 0x0000#16

/-- Derived from R113–R115 (the lemma behind R118 (b)): sequences that differ in one byte only have different CRCs. -/
def Obligations.CrcTellsOneChangedByte : Prop :=
  ∀ (p q : List Byte) (a b : Byte), a ≠ b → crcCore (p ++ a :: q) ≠ crcCore (p ++ b :: q)

/-! ### LRC -/

/-- R119, R121, R122: LRC completes on every sequence; the byte it delivers makes the sum 0 mod 256, and its rendering
is exactly its two uppercase digits, high digit first; nothing else changes. -/
def Obligations.LrcMakesTheSumZeroAndRendersIt : Prop :=
  ∀ (p : List Byte) (s : State), ∃ t l, exec (.lrc p) s = .next t ∧
    DeliversOnly s t ⟨0x04#8, .ok, .lrc l (twoDigits l)⟩ ∧ (byteSum p + l.toNat) % 256 = 0

/-- R123: LRC of the empty sequence is 0x00 and "00". -/
def Obligations.LrcOfNothingIsZero : Prop :=
  ∀ s : State, ∃ t, exec (.lrc []) s = .next t ∧
    DeliversOnly s t ⟨0x04#8, .ok, .lrc 0x00#8 [0x30#8, 0x30#8]⟩

/-- R122 and R100 together (derived): BIN2ASCII accepts, unchanged, every character HEX2 renders. -/
def Obligations.Bin2asciiAcceptsWhatHex2Renders : Prop :=
  ∀ (v c : Byte) (s : State), c ∈ hex2 v → ∃ t, exec (.bin2ascii c) s = .next t ∧
    DeliversOnly s t ⟨0x01#8, .ok, .ch c⟩

/-! ### BUILD -/

/-- R151, R69: BUILD completes on every record with the six bytes in declared order, the CRC's low byte and its high
byte; nothing else changes. -/
def Obligations.BuildDeliversTheRequestFrame : Prop :=
  ∀ (h : Hdr) (s : State), ∃ t lo hi, exec (.build h) s = .next t ∧
    DeliversOnly s t ⟨0x05#8, .ok, .frame [h.slave, h.fc, h.sah, h.sal, h.rch, h.rcl, lo, hi]⟩ ∧
    lo.toNat = (crcCore [h.slave, h.fc, h.sah, h.sal, h.rch, h.rcl]).toNat % 256 ∧
    hi.toNat = (crcCore [h.slave, h.fc, h.sah, h.sal, h.rch, h.rcl]).toNat / 256

/-- R152: every frame BUILD delivers has 8 bytes, and its last two are what CRC16 delivers for its first six. -/
def Obligations.BuiltFramesCarryTheirCrc16 : Prop :=
  ∀ (h : Hdr) (s t : State) (f : List Byte), exec (.build h) s = .next t →
    t.results = s.results ++ [⟨0x05#8, .ok, .frame f⟩] →
    f.length = 8 ∧ ∃ u lo hi, exec (.crc16 (f.take 6)) t = .next u ∧
      u.results = t.results ++ [⟨0x03#8, .ok, .crc lo hi⟩] ∧ f.drop 6 = [lo, hi]

/-- R44: bytes 2–3 of a built frame are the start address and bytes 4–5 the register count, high byte first. -/
def Obligations.BuiltFrameWordsAreHighByteFirst : Prop :=
  ∀ (h : Hdr) (s t : State) (f : List Byte), exec (.build h) s = .next t →
    t.results = s.results ++ [⟨0x05#8, .ok, .frame f⟩] →
    ∃ a b c d, f[2]? = some a ∧ f[3]? = some b ∧ f[4]? = some c ∧ f[5]? = some d ∧
      (startAddress h).toNat = a.toNat * 256 + b.toNat ∧
      (registerCount h).toNat = c.toNat * 256 + d.toNat

/-! ### DUMP -/

/-- R153, R154: DUMP completes on every sequence with its bytes as `0xHH`, joined by comma and space, no trailing
separator, and nothing for the empty sequence; nothing else changes. The codes of 'x', ',' and ' ' are R67's. -/
def Obligations.DumpJoinsTheHexElements : Prop :=
  ∀ (p : List Byte) (s : State), ∃ t, exec (.dump p) s = .next t ∧
    DeliversOnly s t ⟨0x06#8, .ok, .text (joinedDump p)⟩

/-- R153, R154: the text has 6n − 2 characters for n ≥ 1 bytes, and none for none. -/
def Obligations.DumpTextHasItsLength : Prop :=
  ∀ (p : List Byte) (s t : State) (x : List Byte), exec (.dump p) s = .next t →
    t.results = s.results ++ [⟨0x06#8, .ok, .text x⟩] →
    (p = [] → x = []) ∧ (1 ≤ p.length → x.length = 6 * p.length - 2)

/-- Derived from R153: a dump loses nothing: sequences with the same text are the same. -/
def Obligations.DumpTextDeterminesTheBytes : Prop :=
  ∀ p q : List Byte, dumpText p = dumpText q → p = q

/-! ### RECEIVE -/

/-- R156, R157, R159: RECEIVE completes whenever the length differs from `expectedSize` or is at least 2: SizeMismatch,
Valid or ChecksumMismatch, and `ok` is 1 exactly when Valid; nothing else changes. -/
def Obligations.ReceiveChecksSizeThenChecksum : Prop :=
  ∀ (m : List Byte) (n : Int) (s : State), ((m.length : Int) ≠ n ∨ 2 ≤ m.length) →
    ∃ t, exec (.receive m n) s = .next t ∧
      ((m.length : Int) ≠ n → DeliversOnly s t ⟨0x07#8, .sizeMismatch, .ok 0#1⟩) ∧
      ((m.length : Int) = n → FrameOk m → DeliversOnly s t ⟨0x07#8, .ok, .ok 1#1⟩) ∧
      ((m.length : Int) = n → ¬ FrameOk m → DeliversOnly s t ⟨0x07#8, .checksumMismatch, .ok 0#1⟩)

/-- R158, R207, R209: RECEIVE of 0 or 1 bytes whose length is `expectedSize` takes ShortFrame: one record, no result,
nothing else. -/
def Obligations.ReceiveOfAShortFrameFaults : Prop :=
  ∀ (m : List Byte) (s : State), m.length < 2 →
    ∃ t, exec (.receive m m.length) s = .next t ∧ FaultsOnly s t ⟨0x07#8, .shortFrame⟩

/-- R162: an expected size one above the length is a SizeMismatch with `ok = 0`, whatever the content, and never a
fault. -/
def Obligations.ReceiveNoticesAWrongSize : Prop :=
  ∀ (m : List Byte) (s : State), ∃ t, exec (.receive m (m.length + 1)) s = .next t ∧
    DeliversOnly s t ⟨0x07#8, .sizeMismatch, .ok 0#1⟩

/-- R161: RECEIVE of the frame that BUILD delivered, with expected size 8, is Valid. -/
def Obligations.BuiltFramesAreReceivedAsValid : Prop :=
  ∀ (h : Hdr) (s : State), ∃ t f, exec (.build h) s = .next t ∧
    t.results = s.results ++ [⟨0x05#8, .ok, .frame f⟩] ∧
    ∃ u, exec (.receive f 8) t = .next u ∧ DeliversOnly t u ⟨0x07#8, .ok, .ok 1#1⟩

/-- R163, which the spec derives from R118 (b) (90_conflicts.md C6): with any one bit of any of its 8 bytes flipped, the frame BUILD delivered is a ChecksumMismatch. -/
def Obligations.OneFlippedBitOfABuiltFrameIsNoticed : Prop :=
  ∀ (h : Hdr) (s : State) (i b : Nat), i < 8 → b < 8 → ∃ t f, exec (.build h) s = .next t ∧
    t.results = s.results ++ [⟨0x05#8, .ok, .frame f⟩] ∧
    ∃ u, exec (.receive (flipBit f i b) 8) t = .next u ∧
      DeliversOnly t u ⟨0x07#8, .checksumMismatch, .ok 0#1⟩

/-- R118 (b): the same for a payload of any length with its CRC appended, at every bit position of it. -/
def Obligations.OneFlippedBitOfAnyFrameIsNoticed : Prop :=
  ∀ (p : List Byte) (lo hi : Byte) (s t : State) (i b : Nat), exec (.crc16 p) s = .next t →
    t.results = s.results ++ [⟨0x03#8, .ok, .crc lo hi⟩] → i < p.length + 2 → b < 8 →
    ∃ u, exec (.receive (flipBit (p ++ [lo, hi]) i b) (p.length + 2)) t = .next u ∧
      DeliversOnly t u ⟨0x07#8, .checksumMismatch, .ok 0#1⟩

/-- R155, the corner cases of the byte order: a frame with its two CRC bytes swapped is a ChecksumMismatch unless they are
equal. -/
def Obligations.SwappedCrcBytesAreNoticed : Prop :=
  ∀ (p : List Byte) (lo hi : Byte) (s t : State), exec (.crc16 p) s = .next t →
    t.results = s.results ++ [⟨0x03#8, .ok, .crc lo hi⟩] →
    ∃ u, exec (.receive (p ++ [hi, lo]) (p.length + 2)) t = .next u ∧
      (lo ≠ hi → DeliversOnly t u ⟨0x07#8, .checksumMismatch, .ok 0#1⟩) ∧
      (lo = hi → DeliversOnly t u ⟨0x07#8, .ok, .ok 1#1⟩)

/-! ### Reset, and the engine between commands -/

/-- R34: right after reset the engine is Idle, the fault log empty and no command in flight. -/
def Obligations.ResetStateIsIdleAndClean : Prop :=
  State.reset.phase = .idle ∧ State.reset.faultLog = [] ∧ State.reset.inflight = none

/-- Derived from R230 and R209: reset is taken at any time, Busy or Idle, in both views: Idle, an empty log, and the
command in flight gone without a result or a record; the results already delivered stay. No other step takes anything out
of the fault log. The model's choice: that the parameters and the host's later actions stay too (log 12), and that reset
is an action in the host's list, one step of its own (log 1). -/
def Obligations.ResetAbandonsAndAloneClearsTheLog : Prop :=
  (∀ (s : State) (rest : List HostEvent), s.host = .reset :: rest →
    ∃ t, step s = .next t ∧ microStep s = .next t ∧ t.phase = .idle ∧ t.faultLog = [] ∧
      t.inflight = none ∧ t.results = s.results ∧ t.config = s.config ∧ t.host = rest) ∧
  ∀ s t : State, (∀ rest, s.host ≠ .reset :: rest) → (step s = .next t ∨ microStep s = .next t) →
    ∃ more, t.faultLog = s.faultLog ++ more

/-- Derived from R20 and R219 (the model's choice, log 7, and log 5 for the dead registers): an Idle engine whose host does
nothing stays as it is. -/
def Obligations.IdleEngineWaitsForTheHost : Prop :=
  ∀ s : State, s.phase = .idle → s.host = [] → step s = .next s ∧ microStep s = .next s

/-- R234: a Busy engine accepts no command: the host's command is still there after the step, in both views. -/
def Obligations.BusyEngineAcceptsNothing : Prop :=
  ∀ (s t : State) (c : Cmd) (rest : List HostEvent), s.phase = .busy → s.host = .issue c :: rest →
    (step s = .next t ∨ microStep s = .next t) → t.host = s.host

/-- Derived from R230, R25 and D8: no step takes back a result or changes the parameters, reset included. In both
views. -/
def Obligations.ResultsAndParametersAreKept : Prop :=
  ∀ s t : State, (step s = .next t ∨ microStep s = .next t) →
    (∃ more, t.results = s.results ++ more) ∧ t.config = s.config

/-! ### Independence -/

/-- R32: what a command answers depends on its operation and operands alone, not on the fault log, the results, the
phase or the transient registers: its meaning delivers the same result or logs the same record in any two states; and so
does a step that takes it, under the same fixed parameter. -/
def Obligations.AnswersDoNotDependOnHistory : Prop :=
  (∀ (i : Instr) (s u : State), ∃ s' u' rs fs, exec i s = .next s' ∧ exec i u = .next u' ∧
    s'.results = s.results ++ rs ∧ u'.results = u.results ++ rs ∧
    s'.faultLog = s.faultLog ++ fs ∧ u'.faultLog = u.faultLog ++ fs) ∧
  ∀ (s u : State) (c : Cmd) (ps pu : List HostEvent), s.phase = .idle → u.phase = .idle →
    s.config = u.config → s.host = .issue c :: ps → u.host = .issue c :: pu →
    ∃ s' u' rs fs, step s = .next s' ∧ step u = .next u' ∧
      s'.results = s.results ++ rs ∧ u'.results = u.results ++ rs ∧
      s'.faultLog = s.faultLog ++ fs ∧ u'.faultLog = u.faultLog ++ fs

/-- R52 (b): issuing two commands in the other order changes no result and no fault record, only the order in which they
stand. -/
def Obligations.CommandOrderOnlyOrdersTheAnswers : Prop :=
  ∀ (s : State) (a b : Cmd), s.phase = .idle →
    ∃ t u, core.run 2 { s with host := [.issue a, .issue b] } = .next t ∧
      core.run 2 { s with host := [.issue b, .issue a] } = .next u ∧
      t.results.Perm u.results ∧ t.faultLog.Perm u.faultLog

/-- Derived from R236, R237 and R52 (a): a run of a list of commands ends Idle with nothing left to issue; its outcome is the results in issue
order, after the ones already delivered, and the fault records in issue order, after the ones already logged. -/
def Obligations.RunDeliversInIssueOrder : Prop :=
  ∀ (cs : List Cmd) (s : State), s.phase = .idle → s.host = cs.map HostEvent.issue →
    ∃ t, core.run cs.length s = .next t ∧ t.phase = .idle ∧ t.host = [] ∧ t.config = s.config ∧
      t.results = s.results ++ cs.filterMap (resultOf s.config.maxSeqLen) ∧
      t.faultLog = s.faultLog ++ cs.filterMap (recordOf s.config.maxSeqLen)

/-- R217, R52 (c): instances share nothing: a step of one leaves every other as it was, and steps of two different
instances give the same system in either order. -/
def Obligations.InstancesShareNothing : Prop :=
  (∀ (k : Nat) (y z : System), stepInstance k y = .next z →
    z.engines.length = y.engines.length ∧ ∀ j, j ≠ k → z.engines[j]? = y.engines[j]?) ∧
  ∀ (j k : Nat) (y z w : System), j ≠ k → stepInstance j y = .next z → stepInstance k y = .next w →
    ∃ x, stepInstance k z = .next x ∧ stepInstance j w = .next x

/-! ### The invariant -/

/-- The invariant holds after reset. -/
def Obligations.InvariantHoldsAtReset : Prop := StateInv State.reset

/-- Every step keeps the invariant (R21, R26, R30, R66, R67, R200): Idle exactly when nothing is in flight, the registers
of a command in flight hold its partial result, every delivered result has the form and content of its command, every
record is one the rules allow. -/
def Obligations.StepKeepsTheInvariant : Prop :=
  ∀ s t : State, StateInv s → step s = .next t → StateInv t

/-- Every micro-step keeps the invariant: the loop invariants of R111, R113–R115, R119 and R153 on the transient
registers included. -/
def Obligations.MicroStepKeepsTheInvariant : Prop :=
  ∀ s t : State, StateInv s → microStep s = .next t → StateInv t

/-- From every state that meets the invariant both views go on: no command ends the machine (R236). -/
def Obligations.EveryStepGoesOn : Prop :=
  ∀ s : State, StateInv s → GoesOn (step s) ∧ GoesOn (microStep s)

/-! ### The micro-step view -/

/-- R235: the iteration counts of the commands. -/
def Obligations.IterationCountsOfTheCommands : Prop :=
  (∀ v, iterations (.parity8 v) = 8) ∧
  (∀ p, iterations (.crc16 p) = 8 * p.length) ∧
  (∀ h, iterations (.build h) = 48) ∧
  (∀ (p : List Byte) (n : Int), (p.length : Int) = n → 2 ≤ p.length →
    iterations (.receive p n) = 8 * (p.length - 2)) ∧
  (∀ p, iterations (.lrc p) = p.length) ∧
  (∀ p, iterations (.dump p) = p.length)

/-- Derived from R27 and R235: the micro-step view refines nothing away: a command taken from Idle and run through its
iterations gives the state the atomic step gives, whole; and a command that does not decode takes its fault in both. The
model's choice: the count of the steps, one to accept the command, one an iteration and one to end it, and one for a
decode fault (log 8); and, since the states are compared whole, that both views draw the dead registers' free values from
the same counter (log 5). The host issues nothing in between; HostWaitsDoNotDisturbACommand has the host that waits. -/
def Obligations.MicroStepsAgreeWithTheAtomicStep : Prop :=
  ∀ (s : State) (c : Cmd) (rest : List HostEvent), s.phase = .idle → s.host = .issue c :: rest →
    HostOnlyIssues rest →
    (∀ i, decode s.config.maxSeqLen c = .ok i → microRun (iterations i + 2) s = step s) ∧
    (∀ k, decode s.config.maxSeqLen c = .error k → microStep s = step s)

/-- Derived from R27 and R236: from ANY state of a micro-step run (any state that meets the invariant), a command in flight
with `n` iterations left ends as its atomic meaning ends it. The model's choice: that it takes exactly `n + 1` steps
(log 8), and the dead registers' free values in the whole state (log 5). -/
def Obligations.CommandInFlightEndsAsItsMeaning : Prop :=
  ∀ (s : State) (f : InFlight), StateInv s → s.inflight = some f → HostOnlyIssues s.host →
    microRun (f.left + 1) s = exec f.instr s

/-- Derived from R27 and R49, the same with a host that lets `n` steps pass (log 7) before its next command: a
command taken from Idle still ends as the atomic step ends it. The waits that stand while it runs are passed over, one a
step; those beyond its `iterations i + 1` steps after the accepting one are left. The model's choice: the `wait` event
(log 7), the count of the steps (log 8), and the dead registers' free values in the whole state (log 5). -/
def Obligations.HostWaitsDoNotDisturbACommand : Prop :=
  ∀ (s : State) (c : Cmd) (i : Instr) (n : Nat) (rest : List HostEvent), s.phase = .idle →
    s.host = .issue c :: (List.replicate n .wait ++ rest) → HostOnlyIssues rest →
    decode s.config.maxSeqLen c = .ok i →
    microRun (iterations i + 2) s =
      step { s with host := .issue c :: (List.replicate (n - (iterations i + 1)) .wait ++ rest) }

/-- R65: the bytes a command carries follow from its format. -/
def Obligations.OperandBytesFollowTheFormat : Prop :=
  ∀ (m : Option Nat) (c : Cmd) (i : Instr), decode m c = .ok i →
    (opFormat c.op = some .byte → (operandBytes c.operand).length = 1) ∧
    (opFormat c.op = some .hdr → (operandBytes c.operand).length = 6) ∧
    (opFormat c.op = some .seq ∨ opFormat c.op = some .recv →
      i.seqLen = some (operandBytes c.operand).length)
end

