-- ==== Sys2Proof/Laws/Crc.lean ====
section
/-! SUPPORT. Small lemmas about the CRC register (41_error_detection.md R113–R115). -/

namespace Sys2Proof.Laws

open Sys2Proof.Machine

@[simp] theorem crcCore_nil : crcCore [] = crcInit := rfl

theorem crcCore_append (p q : List Byte) : crcCore (p ++ q) = q.foldl crcByte (crcCore p) :=
  List.foldl_append

/-- CRC_BIT loses nothing: its bit 15 tells whether it fed back. -/
theorem crcBit_injective : Function.Injective crcBit := by
  have top : ∀ c : Half, (crcBit c).getLsbD 15 = c.getLsbD 0 := by
    intro c
    unfold crcBit crcPoly
    split <;> simp_all
  intro a b h
  have h0 : a.getLsbD 0 = b.getLsbD 0 := by rw [← top a, ← top b, h]
  have hs : a >>> 1 = b >>> 1 := by
    unfold crcBit at h
    rw [h0] at h
    split at h
    · exact (BitVec.xor_left_inj crcPoly).mp h
    · exact h
  apply BitVec.eq_of_getLsbD_eq
  intro i hi
  match i with
  | 0 => exact h0
  | j + 1 =>
    have := congrArg (fun v => BitVec.getLsbD v j) hs
    simpa [BitVec.getLsbD_ushiftRight, Nat.add_comm] using this

/-- CRC_BYTE loses nothing of the register. -/
theorem crcByte_injective_left (b : Byte) : Function.Injective (fun c => crcByte c b) := by
  intro x y h
  have := (crcBit_injective.iterate 8) h
  exact (BitVec.xor_left_inj _).mp this

/-- CRC_BYTE loses nothing of the byte. -/
theorem crcByte_injective_right (c : Half) : Function.Injective (crcByte c) := by
  intro x y h
  have h1 : c ^^^ x.zeroExtend 16 = c ^^^ y.zeroExtend 16 := (crcBit_injective.iterate 8) h
  have h2 : x.zeroExtend 16 = y.zeroExtend 16 := (BitVec.xor_right_inj c).mp h1
  have h3 := congrArg BitVec.toNat h2
  simp only [BitVec.toNat_setWidth] at h3
  apply BitVec.eq_of_toNat_eq
  omega

end Sys2Proof.Laws
end

