-- ==== Sys2Proof/Laws/State.lean ====
section
/-! SUPPORT. One lemma per field for every shared operation on the state. -/

namespace Sys2Proof.Laws

open Sys2Proof.Machine

variable (s : State) (r : Res) (op : Byte) (k : FaultKind)

@[simp] theorem retire_config : (retire s).config = s.config := rfl
@[simp] theorem retire_phase : (retire s).phase = .idle := rfl
@[simp] theorem retire_faultLog : (retire s).faultLog = s.faultLog := rfl
@[simp] theorem retire_inflight : (retire s).inflight = none := rfl
@[simp] theorem retire_regs : (retire s).regs = deadRegs s.draws := rfl
@[simp] theorem retire_host : (retire s).host = s.host := rfl
@[simp] theorem retire_results : (retire s).results = s.results := rfl
@[simp] theorem retire_draws : (retire s).draws = s.draws + 1 := rfl

@[simp] theorem deliver_config : (deliver r s).config = s.config := rfl
@[simp] theorem deliver_phase : (deliver r s).phase = s.phase := rfl
@[simp] theorem deliver_faultLog : (deliver r s).faultLog = s.faultLog := rfl
@[simp] theorem deliver_inflight : (deliver r s).inflight = s.inflight := rfl
@[simp] theorem deliver_regs : (deliver r s).regs = s.regs := rfl
@[simp] theorem deliver_host : (deliver r s).host = s.host := rfl
@[simp] theorem deliver_results : (deliver r s).results = s.results ++ [r] := rfl
@[simp] theorem deliver_draws : (deliver r s).draws = s.draws := rfl

@[simp] theorem raiseFault_config : (raiseFault op k s).config = s.config := rfl
@[simp] theorem raiseFault_phase : (raiseFault op k s).phase = .idle := rfl
@[simp] theorem raiseFault_faultLog : (raiseFault op k s).faultLog = s.faultLog ++ [⟨op, k⟩] := rfl
@[simp] theorem raiseFault_inflight : (raiseFault op k s).inflight = none := rfl
@[simp] theorem raiseFault_regs : (raiseFault op k s).regs = s.regs := rfl
@[simp] theorem raiseFault_host : (raiseFault op k s).host = s.host := rfl
@[simp] theorem raiseFault_results : (raiseFault op k s).results = s.results := rfl
@[simp] theorem raiseFault_draws : (raiseFault op k s).draws = s.draws := rfl

@[simp] theorem resetEngine_config : (resetEngine s).config = s.config := rfl
@[simp] theorem resetEngine_phase : (resetEngine s).phase = .idle := rfl
@[simp] theorem resetEngine_faultLog : (resetEngine s).faultLog = [] := rfl
@[simp] theorem resetEngine_inflight : (resetEngine s).inflight = none := rfl
@[simp] theorem resetEngine_regs : (resetEngine s).regs = Datapath.reset := rfl
@[simp] theorem resetEngine_host : (resetEngine s).host = s.host := rfl
@[simp] theorem resetEngine_results : (resetEngine s).results = s.results := rfl
@[simp] theorem resetEngine_draws : (resetEngine s).draws = s.draws := rfl

@[simp] theorem endCommand_ok : endCommand op (.ok r) s = deliver r (retire s) := rfl
@[simp] theorem endCommand_error : endCommand op (.error k) s = raiseFault op k (retire s) := rfl

end Sys2Proof.Laws
end

