-- ==== Sys2Proof/Laws/Ops.lean ====
section
/-! SUPPORT. What the shared operations can do, said once: the end of a command, every meaning as the end of its
command, and the step by the host's next action. -/

namespace Sys2Proof.Laws

open Sys2Proof.Machine Sys2Proof.Safety

/-- The end of a command with a result delivers it and does nothing else. -/
theorem endCommand_ok_delivers (op : Byte) (r : Res) (s : State) :
    DeliversOnly s (endCommand op (.ok r) s) r :=
  ⟨rfl, rfl, rfl, rfl, rfl, rfl⟩

/-- The end of a command with a fault logs it and does nothing else. -/
theorem endCommand_error_faults (op : Byte) (k : FaultKind) (s : State) :
    FaultsOnly s (endCommand op (.error k) s) ⟨op, k⟩ :=
  ⟨rfl, rfl, rfl, rfl, rfl, rfl⟩

/-- Every meaning is the end of its command with the command's answer. -/
theorem exec_eq_endCommand (i : Instr) (s : State) :
    exec i s = .next (endCommand (opOf i) (answerOf i) s) := by
  cases i <;> rfl

/-- The end of a command does not look at the registers or the command in flight. -/
theorem endCommand_ignores_engine (op : Byte) (e : Except FaultKind Res) (s : State) (p : Phase)
    (f : Option InFlight) (d : Datapath) :
    endCommand op e { s with phase := p, inflight := f, regs := d } = endCommand op e s := by
  cases e <;> rfl

/-- What RECEIVE can answer, with what it takes. -/
theorem receiveEnd_cases (m : List Byte) (n : Int) (r : Half) :
    ((m.length : Int) ≠ n ∧ receiveEnd m n r = .ok (receiveRes .sizeMismatch)) ∨
    ((m.length : Int) = n ∧ m.length < 2 ∧ receiveEnd m n r = .error .shortFrame) ∨
    ((m.length : Int) = n ∧ 2 ≤ m.length ∧ checksumMatches m r = true ∧
      receiveEnd m n r = .ok (receiveRes .ok)) ∨
    ((m.length : Int) = n ∧ 2 ≤ m.length ∧ checksumMatches m r = false ∧
      receiveEnd m n r = .ok (receiveRes .checksumMismatch)) := by
  unfold receiveEnd
  by_cases h : (m.length : Int) = n
  · by_cases h2 : m.length < 2
    · exact .inr (.inl ⟨h, h2, by simp [h, h2]⟩)
    · have h2' := Nat.le_of_not_lt h2
      cases hc : checksumMatches m r
      · exact .inr (.inr (.inr ⟨h, h2', rfl, by simp [h, h2]⟩))
      · exact .inr (.inr (.inl ⟨h, h2', rfl, by simp [h, h2]⟩))
  · exact .inl ⟨h, by simp [h]⟩

/-- The step, by the host's next action, for either way of taking a command. -/
theorem stepWith_cases (take : Cmd → State → Host.Outcome State Fault Refusal) (s : State) :
    (∃ rest, s.host = .reset :: rest ∧
      stepWith take s = .next (resetEngine { s with host := rest })) ∨
    (s.host = [] ∧ stepWith take s = advance s) ∨
    (∃ rest, s.host = .wait :: rest ∧ stepWith take s = advance { s with host := rest }) ∨
    (∃ c rest, s.host = .issue c :: rest ∧ s.phase = .busy ∧ stepWith take s = advance s) ∨
    (∃ c rest, s.host = .issue c :: rest ∧ s.phase = .idle ∧
      stepWith take s = take c { s with host := rest }) := by
  unfold stepWith
  match h : s.host with
  | [] => exact .inr (.inl ⟨rfl, rfl⟩)
  | .reset :: rest => exact .inl ⟨rest, rfl, rfl⟩
  | .wait :: rest => exact .inr (.inr (.inl ⟨rest, rfl, rfl⟩))
  | .issue c :: rest =>
    match hp : s.phase with
    | .idle => exact .inr (.inr (.inr (.inr ⟨c, rest, rfl, rfl, rfl⟩)))
    | .busy => exact .inr (.inr (.inr (.inl ⟨c, rest, rfl, rfl, rfl⟩)))

/-- What a step without a command can do. -/
theorem advance_cases (s : State) :
    (s.phase = .idle ∧ advance s = .next s) ∨
    (s.phase = .busy ∧ s.inflight = none ∧ advance s = .fault .busyWithoutCommand) ∨
    (∃ i, s.phase = .busy ∧ s.inflight = some ⟨i, 0⟩ ∧
      advance s = .next (endCommand (opOf i) (endFromRegs i s.regs) s)) ∨
    (∃ i k, s.phase = .busy ∧ s.inflight = some ⟨i, k + 1⟩ ∧
      advance s = .next { s with inflight := some ⟨i, k⟩, regs := iteration i s.regs }) := by
  unfold advance busyStep
  match hp : s.phase with
  | .idle => exact .inl ⟨rfl, rfl⟩
  | .busy =>
    match hf : s.inflight with
    | none => exact .inr (.inl ⟨rfl, rfl, rfl⟩)
    | some ⟨i, 0⟩ => exact .inr (.inr (.inl ⟨i, rfl, rfl, rfl⟩))
    | some ⟨i, k + 1⟩ => exact .inr (.inr (.inr ⟨i, k, rfl, rfl, rfl⟩))

/-- One step of a run. -/
theorem core_run_succ (k : Nat) (s t : State) (h : step s = .next t) :
    core.run (k + 1) s = core.run k t := by
  have h' : core.step s = .next t := h
  simp only [Host.Core.run, h']

end Sys2Proof.Laws
end

