-- ==== Sys2Proof/Laws/PerInstr.lean ====
section
/-! SUPPORT. Statements made per command: the operand that the encoder writes has the shape its code asks for (30_encoding.md
R60, R61). -/

namespace Sys2Proof.Laws.EncodedShape

def Statement (i : Instr) : Prop := opFormat (encode i).op = some (operandFormat (encode i).operand)

theorem bin2ascii (v : Byte) : Statement (.bin2ascii v) := rfl
theorem parity8 (v : Byte) : Statement (.parity8 v) := rfl
theorem crc16 (s : List Byte) : Statement (.crc16 s) := rfl
theorem lrc (s : List Byte) : Statement (.lrc s) := rfl
theorem build (h : Hdr) : Statement (.build h) := rfl
theorem dump (s : List Byte) : Statement (.dump s) := rfl
theorem receive (s : List Byte) (n : Int) : Statement (.receive s n) := rfl

end Sys2Proof.Laws.EncodedShape
end

