-- ==== Sys2Proof/Machine/Listing.lean ====
section
/-! DEFINITION. The command syntax of 30_encoding.md R68, as ASCII text. Notation only: the engine never reads it. -/

namespace Sys2Proof.Machine

/-- The ASCII codes of a text (R67, D9). -/
def asciiCodes (t : List Char) : List Byte := t.map (fun c => BitVec.ofNat 8 c.toNat)

/-- The mnemonic of a command (R61). -/
def mnemonicText : Instr → List Byte
  | .bin2ascii _ => asciiCodes ['B', 'I', 'N', '2', 'A', 'S', 'C', 'I', 'I']
  | .parity8 _ => asciiCodes ['P', 'A', 'R', 'I', 'T', 'Y', '8']
  | .crc16 _ => asciiCodes ['C', 'R', 'C', '1', '6']
  | .lrc _ => asciiCodes ['L', 'R', 'C']
  | .build _ => asciiCodes ['B', 'U', 'I', 'L', 'D']
  | .dump _ => asciiCodes ['D', 'U', 'M', 'P']
  | .receive _ _ => asciiCodes ['R', 'E', 'C', 'E', 'I', 'V', 'E']

/-- `<byte>`: a hex literal 0x00–0xFF (R68). -/
def byteText (b : Byte) : List Byte := dumpElem b

/-- `<byte>, ...` (R68). -/
def bytesText (s : List Byte) : List Byte := dumpText s

/-- `[<byte>, ...]` (R68). -/
def seqText (s : List Byte) : List Byte := [0x5B#8] ++ bytesText s ++ [0x5D#8]

/-- `<integer>`: a decimal integer, which may be negative (R68). -/
def intText (n : Int) : List Byte :=
  (if n < 0 then [0x2D#8] else []) ++ asciiCodes (Nat.toDigits 10 n.natAbs)

/-- The operands of a command (R68). -/
def operandText : Operand → List Byte
  | .oByte v => byteText v
  | .oSeq s => seqText s
  | .oHdr h => [0x7B#8] ++ bytesText (hdrBytes h) ++ [0x7D#8]
  | .oRecv s n => seqText s ++ [0x2C#8, 0x20#8] ++ intText n

/-- A command in the syntax of R68: mnemonic, one space, operands. -/
def commandText (i : Instr) : List Byte := mnemonicText i ++ [0x20#8] ++ operandText (operandOf i)

end Sys2Proof.Machine
end

