-- ==== Sys2Proof/Tests/Slice0.lean ====
section
/-! SUPPORT. Tests with the spec's own vectors (95_test_vectors.md), the WellFormed smoke test, and a witness for every
statement that has hypotheses. -/

namespace Sys2Proof.Tests

open Sys2Proof.Machine Sys2Proof.Safety

/-! ### Helpers -/

/-- The reset state with the host about to issue `c`. -/
def withCmd (c : Cmd) : State := { State.reset with host := [.issue c] }

/-- What one step has delivered. -/
def delivered (o : Host.Outcome State Fault Refusal) : List Res :=
  match o with
  | .next t => t.results
  | .fault _ => []
  | .refused _ => []

/-- What one step has logged. -/
def logged (o : Host.Outcome State Fault Refusal) : List FaultRecord :=
  match o with
  | .next t => t.faultLog
  | .fault _ => []
  | .refused _ => []

/-- CRC16 [0x01] in flight after its first bit iteration (the bit trace of 95_test_vectors.md §2.3). -/
def inFlightCrc : State :=
  { State.reset with
    phase := .busy, inflight := some ⟨.crc16 [0x01#8], 7⟩,
    regs := { Datapath.reset with crc := 0x7FFF#16, bitk := 1#4 } }

/-! ### WellFormed: the one check refuses (R208, V-DEC-6) and lets the bound itself pass (V-DEC-7) -/

theorem test_wf_refuses_overlong_crc16 : Instr.wf (some 2) (.crc16 [0#8, 0#8, 0#8]) = false := by decide
theorem test_wf_refuses_overlong_lrc : Instr.wf (some 2) (.lrc [0#8, 0#8, 0#8]) = false := by decide
theorem test_wf_refuses_overlong_dump : Instr.wf (some 0) (.dump [0#8]) = false := by decide
theorem test_wf_refuses_overlong_receive : Instr.wf (some 1) (.receive [0#8, 0#8] 2) = false := by decide
theorem test_wf_takes_the_bound : Instr.wf (some 2) (.crc16 [0#8, 0#8]) = true := by decide

/-! ### Decode: words written out from R61 -/

theorem test_decode_bin2ascii : decode none ⟨0b00000001#8, .oByte 0x41#8⟩ = .ok (.bin2ascii 0x41#8) := by decide
theorem test_decode_parity8 : decode none ⟨0b00000010#8, .oByte 0x7B#8⟩ = .ok (.parity8 0x7B#8) := by decide
theorem test_decode_crc16 : decode none ⟨0b00000011#8, .oSeq [0x01#8]⟩ = .ok (.crc16 [0x01#8]) := by decide
theorem test_decode_lrc : decode none ⟨0b00000100#8, .oSeq [0x01#8]⟩ = .ok (.lrc [0x01#8]) := by decide
theorem test_decode_build : decode none ⟨0b00000101#8, .oHdr ⟨1#8, 2#8, 3#8, 4#8, 5#8, 6#8⟩⟩ =
    .ok (.build ⟨1#8, 2#8, 3#8, 4#8, 5#8, 6#8⟩) := by decide
theorem test_decode_dump : decode none ⟨0b00000110#8, .oSeq []⟩ = .ok (.dump []) := by decide
theorem test_decode_receive : decode none ⟨0b00000111#8, .oRecv [0xFF#8] (-1)⟩ = .ok (.receive [0xFF#8] (-1)) := by decide
theorem test_decode_reserved : decode none ⟨0x08#8, .oSeq []⟩ = .error .illegalCommand := by decide
theorem test_decode_wrong_shape_before_too_long :
    decode (some 0) ⟨0x05#8, .oSeq [0x01#8]⟩ = .error .illegalCommand := by decide
theorem test_table_word : decodeTableWord 8 0x07 = some (.receive [] 0) := by decide
theorem test_table_word_reserved : decodeTableWord 8 0x00 = none := by decide
theorem test_fetch_word_runs : delivered (step (State.reset.withFetchWord 8 0x03)) =
    [⟨0x03#8, .ok, .crc 0xFF#8 0xFF#8⟩] := by decide

/-! ### The commands, at most two vectors each -/

/-- V-A2A-9. -/
theorem test_bin2ascii_F : delivered (step (withCmd ⟨0x01#8, .oByte 0x46#8⟩)) = [⟨0x01#8, .ok, .ch 0x46#8⟩] := by decide
/-- V-A2A-11. -/
theorem test_bin2ascii_lowercase : delivered (step (withCmd ⟨0x01#8, .oByte 0x61#8⟩)) =
    [⟨0x01#8, .outOfHexRange, .absent⟩] := by decide
/-- V-PAR-4. -/
theorem test_parity8_top_bit : delivered (step (withCmd ⟨0x02#8, .oByte 0x80#8⟩)) = [⟨0x02#8, .ok, .bit 1#1⟩] := by decide
/-- V-PAR-7. -/
theorem test_parity8_A5 : delivered (step (withCmd ⟨0x02#8, .oByte 0xA5#8⟩)) = [⟨0x02#8, .ok, .bit 0#1⟩] := by decide
/-- V-SRC-1. -/
theorem test_crc16_known : delivered (step (withCmd ⟨0x03#8, .oSeq [0x01#8, 0x04#8, 0#8, 0#8, 0#8, 0x01#8]⟩)) =
    [⟨0x03#8, .ok, .crc 0x31#8 0xCA#8⟩] := by decide +kernel
/-- V-CRC-6. -/
theorem test_crc16_check : crcCore [0x31#8, 0x32#8, 0x33#8, 0x34#8, 0x35#8, 0x36#8, 0x37#8, 0x38#8, 0x39#8] =
    0x4B37#16 := by decide +kernel
/-- V-SRC-2. -/
theorem test_lrc_known : delivered (step (withCmd ⟨0x04#8, .oSeq [0x01#8, 0x03#8, 0#8, 0x80#8, 0#8, 0x01#8]⟩)) =
    [⟨0x04#8, .ok, .lrc 0x7B#8 [0x37#8, 0x42#8]⟩] := by decide
/-- V-LRC-5. -/
theorem test_lrc_wraps : delivered (step (withCmd ⟨0x04#8, .oSeq [0x80#8, 0x80#8]⟩)) =
    [⟨0x04#8, .ok, .lrc 0x00#8 [0x30#8, 0x30#8]⟩] := by decide
/-- V-BLD-5. -/
theorem test_build : delivered (step (withCmd ⟨0x05#8, .oHdr ⟨0x11#8, 0x03#8, 0#8, 0x6B#8, 0#8, 0x03#8⟩⟩)) =
    [⟨0x05#8, .ok, .frame [0x11#8, 0x03#8, 0#8, 0x6B#8, 0#8, 0x03#8, 0x76#8, 0x87#8]⟩] := by decide +kernel
/-- V-DMP-3. -/
theorem test_dump : delivered (step (withCmd ⟨0x06#8, .oSeq [0x0A#8, 0xFF#8]⟩)) =
    [⟨0x06#8, .ok, .text [0x30#8, 0x78#8, 0x30#8, 0x41#8, 0x2C#8, 0x20#8, 0x30#8, 0x78#8, 0x46#8, 0x46#8]⟩] := by decide
/-- V-RCV-10. -/
theorem test_receive_three_bytes : delivered (step (withCmd ⟨0x07#8, .oRecv [0x01#8, 0x7E#8, 0x80#8] 3⟩)) =
    [⟨0x07#8, .ok, .ok 1#1⟩] := by decide
/-- V-RCV-14: no result, one record. -/
theorem test_receive_short : delivered (step (withCmd ⟨0x07#8, .oRecv [0#8] 1⟩)) = [] ∧
    logged (step (withCmd ⟨0x07#8, .oRecv [0#8] 1⟩)) = [⟨0x07#8, .shortFrame⟩] := by decide
/-- V-DEC-1. -/
theorem test_reserved_is_logged : logged (step (withCmd ⟨0x00#8, .oByte 0x41#8⟩)) =
    [⟨0x00#8, .illegalCommand⟩] := by decide
/-- The second row of the bit trace of 95_test_vectors.md §2.3. -/
theorem test_micro_step_bit_trace : (match microStep inFlightCrc with
    | .next t => t.regs.crc
    | .fault _ => 0#16
    | .refused _ => 0#16) = 0x9FFE#16 := by decide
/-- The codes of R66 and R200. -/
theorem test_codes : statusCode .checksumMismatch = 0x4#4 ∧ statusCode .outOfHexRange = 0x2#4 ∧
    faultCode .illegalCommand = 0x8#4 ∧ faultCode .operandTooLong = 0xA#4 := by decide
/-- V-RCV-5's message is V-RCV-1's with bit 0 of byte 0 flipped. -/
theorem test_flip : flipBit [0x01#8, 0x04#8] 0 0 = [0x00#8, 0x04#8] := by decide
/-- R68's example. -/
theorem test_listing_bin2ascii : commandText (.bin2ascii 0x41#8) =
    asciiCodes ['B', 'I', 'N', '2', 'A', 'S', 'C', 'I', 'I', ' ', '0', 'x', '4', '1'] := by decide
/-- R68's example. -/
theorem test_listing_receive : commandText (.receive [0xFF#8, 0xFF#8] 2) =
    asciiCodes ['R', 'E', 'C', 'E', 'I', 'V', 'E', ' ', '[', '0', 'x', 'F', 'F', ',', ' ', '0', 'x', 'F', 'F', ']', ',',
      ' ', '2'] := by decide

/-! ### Witnesses: states and operands that meet the hypotheses of each statement -/

theorem witness_DecodeIsTotalAndRejectsByName :
    opFormat 0x00#8 ≠ some (operandFormat (.oByte 0x41#8)) ∧
    opFormat 0x07#8 = some (operandFormat (.oRecv [0#8, 0#8, 0#8] 3)) ∧ TooLong (some 2) (.oRecv [0#8, 0#8, 0#8] 3) ∧
    opFormat 0x03#8 = some (operandFormat (.oSeq [0#8, 0#8])) ∧ ¬ TooLong (some 2) (.oSeq [0#8, 0#8]) := by
  refine ⟨by decide, by decide, ⟨2, 3, rfl, rfl, by decide⟩, by decide, ?_⟩
  rintro ⟨m, n, hm, hn, hlt⟩
  cases hm
  cases hn
  exact absurd hlt (by decide)

theorem witness_StepRunsTheDecodedCommand :
    (withCmd ⟨0x03#8, .oSeq []⟩).phase = .idle ∧
    (withCmd ⟨0x03#8, .oSeq []⟩).host = .issue ⟨0x03#8, .oSeq []⟩ :: [] ∧
    decode (withCmd ⟨0x03#8, .oSeq []⟩).config.maxSeqLen ⟨0x03#8, .oSeq []⟩ = .ok (.crc16 []) := by decide

/-- A reserved code and a wrong shape; the other hypotheses of IllegalCommandTakesItsFault and
CommandGivesOneResultOrOneFault beside them. -/
theorem witness_IllegalCommandTakesItsFault :
    (withCmd ⟨0xFF#8, .oByte 0#8⟩).phase = .idle ∧ (withCmd ⟨0xFF#8, .oByte 0#8⟩).inflight = none ∧
    (withCmd ⟨0xFF#8, .oByte 0#8⟩).host = .issue ⟨0xFF#8, .oByte 0#8⟩ :: [] ∧
    opFormat 0xFF#8 ≠ some (operandFormat (.oByte 0#8)) ∧
    opFormat 0x03#8 ≠ some (operandFormat (.oByte 0x01#8)) := by decide

/-- V-DEC-6's state. -/
def boundedState : State :=
  { withCmd ⟨0x03#8, .oSeq [0#8, 0#8, 0#8]⟩ with config := ⟨some 2⟩ }

theorem witness_OverlongOperandTakesItsFault :
    boundedState.phase = .idle ∧ boundedState.inflight = none ∧
    boundedState.host = .issue ⟨0x03#8, .oSeq [0#8, 0#8, 0#8]⟩ :: [] ∧
    opFormat 0x03#8 = some (operandFormat (.oSeq [0#8, 0#8, 0#8])) ∧
    TooLong boundedState.config.maxSeqLen (.oSeq [0#8, 0#8, 0#8]) :=
  ⟨rfl, rfl, rfl, by decide, 2, 3, rfl, rfl, by decide⟩

theorem witness_CommandGivesOneResultOrOneFault :
    (withCmd ⟨0x02#8, .oByte 0xFE#8⟩).phase = .idle ∧
    (withCmd ⟨0x02#8, .oByte 0xFE#8⟩).host = .issue ⟨0x02#8, .oByte 0xFE#8⟩ :: [] := by decide

theorem witness_CrcBitShiftsRightAndFeedsBack : 0 < 16 ∧ 15 < 16 := by decide

theorem witness_CrcTellsOneChangedByte : (0x00#8 : Byte) ≠ 0xFF#8 := by decide

theorem witness_Bin2asciiAcceptsWhatHex2Renders : (0x30#8 : Byte) ∈ hex2 0x0A#8 ∧ (0x41#8 : Byte) ∈ hex2 0x0A#8 := by decide

/-- Also for BuiltFrameWordsAreHighByteFirst. -/
theorem witness_BuiltFramesCarryTheirCrc16 (h : Hdr) (s : State) :
    ∃ t f, exec (.build h) s = .next t ∧ t.results = s.results ++ [⟨0x05#8, .ok, .frame f⟩] :=
  ⟨_, _, rfl, rfl⟩

/-- With the empty sequence and one byte. -/
theorem witness_DumpTextHasItsLength :
    (∃ t x, exec (.dump []) State.reset = .next t ∧ t.results = State.reset.results ++ [⟨0x06#8, .ok, .text x⟩]) ∧
    ∃ t x, exec (.dump [0x00#8]) State.reset = .next t ∧
      t.results = State.reset.results ++ [⟨0x06#8, .ok, .text x⟩] ∧ 1 ≤ [0x00#8].length :=
  ⟨⟨_, _, rfl, rfl⟩, ⟨_, _, rfl, rfl, by decide⟩⟩

theorem witness_DumpTextDeterminesTheBytes : dumpText [0x0A#8] = dumpText [0x0A#8] := rfl

/-- V-RCV-11, V-RCV-8, V-RCV-9: each clause, at the smallest lengths. -/
theorem witness_ReceiveChecksSizeThenChecksum :
    (([] : List Byte).length : Int) ≠ 1 ∧
    (([0xFF#8, 0xFF#8] : List Byte).length : Int) = 2 ∧ FrameOk [0xFF#8, 0xFF#8] ∧
    (([0x00#8, 0x00#8] : List Byte).length : Int) = 2 ∧ ¬ FrameOk [0x00#8, 0x00#8] :=
  ⟨by decide, by decide, ⟨by decide, by decide⟩, by decide, fun h => absurd h.2 (by decide)⟩

theorem witness_ReceiveOfAShortFrameFaults :
    ([] : List Byte).length < 2 ∧ ([0x00#8] : List Byte).length < 2 := by decide

theorem witness_OneFlippedBitOfABuiltFrameIsNoticed : 0 < 8 ∧ 7 < 8 := by decide

/-- At the first bit of the payload zone and at the last bit of the checksum zone of a one-byte payload. -/
theorem witness_OneFlippedBitOfAnyFrameIsNoticed :
    (∃ t, exec (.crc16 [0x01#8]) State.reset = .next t ∧
      t.results = State.reset.results ++ [⟨0x03#8, .ok, .crc 0x7E#8 0x80#8⟩]) ∧
    (0 < [0x01#8].length + 2 ∧ 0 < 8) ∧ 2 < [0x01#8].length + 2 ∧ 7 < 8 :=
  ⟨⟨_, rfl, by decide⟩, by decide, by decide⟩

/-- A CRC with different bytes and one with equal bytes. -/
theorem witness_SwappedCrcBytesAreNoticed :
    (∃ t, exec (.crc16 [0x01#8]) State.reset = .next t ∧
      t.results = State.reset.results ++ [⟨0x03#8, .ok, .crc 0x7E#8 0x80#8⟩] ∧ (0x7E#8 : Byte) ≠ 0x80#8) ∧
    ∃ t, exec (.crc16 []) State.reset = .next t ∧
      t.results = State.reset.results ++ [⟨0x03#8, .ok, .crc 0xFF#8 0xFF#8⟩] :=
  ⟨⟨_, rfl, by decide, by decide⟩, ⟨_, rfl, by decide⟩⟩

/-- Reset raised while Busy. -/
theorem witness_ResetAbandonsAndAloneClearsTheLog :
    ({ inFlightCrc with host := [.reset] } : State).host = .reset :: [] := rfl

theorem witness_IdleEngineWaitsForTheHost : State.reset.phase = .idle ∧ State.reset.host = [] := by decide

theorem witness_BusyEngineAcceptsNothing :
    let s : State := { inFlightCrc with host := [.issue ⟨0x03#8, .oSeq []⟩] }
    s.phase = .busy ∧ s.host = .issue ⟨0x03#8, .oSeq []⟩ :: [] ∧ ∃ t, step s = .next t :=
  ⟨rfl, rfl, _, rfl⟩

/-- The second clause of ResetAbandonsAndAloneClearsTheLog, with a command that faults, so that the log does grow. -/
theorem witness_ResultsAndParametersAreKept :
    (∀ rest, (withCmd ⟨0x00#8, .oSeq []⟩).host ≠ .reset :: rest) ∧
    ∃ t, step (withCmd ⟨0x00#8, .oSeq []⟩) = .next t :=
  ⟨fun _ h => (by cases h), _, rfl⟩

/-- Two states with different histories. -/
theorem witness_AnswersDoNotDependOnHistory :
    let c : Cmd := ⟨0x02#8, .oByte 0xFE#8⟩
    let u : State := { withCmd c with faultLog := [⟨0x00#8, .illegalCommand⟩] }
    (withCmd c).phase = .idle ∧ u.phase = .idle ∧ (withCmd c).config = u.config ∧
    (withCmd c).host = .issue c :: [] ∧ u.host = .issue c :: [] := by decide

/-- Also for CommandOrderOnlyOrdersTheAnswers. -/
theorem witness_RunDeliversInIssueOrder :
    let s : State := { State.reset with host := [.issue ⟨0x03#8, .oSeq []⟩, .issue ⟨0x00#8, .oSeq []⟩] }
    s.phase = .idle ∧ s.host = [(⟨0x03#8, .oSeq []⟩ : Cmd), ⟨0x00#8, .oSeq []⟩].map HostEvent.issue := by decide

theorem witness_InstancesShareNothing :
    let y : System := ⟨[withCmd ⟨0x03#8, .oSeq []⟩, withCmd ⟨0x04#8, .oSeq []⟩]⟩
    0 ≠ 1 ∧ (∃ z, stepInstance 0 y = .next z) ∧ ∃ w, stepInstance 1 y = .next w :=
  ⟨by decide, ⟨_, rfl⟩, ⟨_, rfl⟩⟩

/-- A Busy state that meets the invariant, in the middle of a byte: for StepKeepsTheInvariant,
MicroStepKeepsTheInvariant, EveryStepGoesOn and CommandInFlightEndsAsItsMeaning. -/
theorem witness_CommandInFlightEndsAsItsMeaning :
    StateInv inFlightCrc ∧ inFlightCrc.inflight = some ⟨.crc16 [0x01#8], 7⟩ ∧ HostOnlyIssues inFlightCrc.host ∧
    (∃ t, step inFlightCrc = .next t) ∧ ∃ t, microStep inFlightCrc = .next t :=
  ⟨⟨⟨by decide, by decide, by decide, by decide, by decide⟩, fun _ h => (by cases h), fun _ h => (by cases h)⟩,
    rfl, fun _ h => (by cases h), ⟨_, rfl⟩, ⟨_, rfl⟩⟩

theorem hostOnlyIssues_cons (c : Cmd) (rest : List HostEvent) : HostOnlyIssues (.issue c :: rest) :=
  fun _ he => ⟨c, (Option.some.inj he).symm⟩

/-- A state whose command decodes, with a command to come. -/
def decodingState : State :=
  { State.reset with host := [.issue ⟨0x03#8, .oSeq [0x01#8]⟩, .issue ⟨0x00#8, .oSeq []⟩] }

/-- A state whose command does not decode, with a command to come. -/
def rejectingState : State :=
  { State.reset with host := [.issue ⟨0x00#8, .oSeq []⟩, .issue ⟨0x03#8, .oSeq []⟩] }

/-- Each clause's hypotheses in one state. -/
theorem witness_MicroStepsAgreeWithTheAtomicStep :
    (decodingState.phase = .idle ∧
      decodingState.host = .issue ⟨0x03#8, .oSeq [0x01#8]⟩ :: [.issue ⟨0x00#8, .oSeq []⟩] ∧
      HostOnlyIssues [.issue ⟨0x00#8, .oSeq []⟩] ∧
      decode decodingState.config.maxSeqLen ⟨0x03#8, .oSeq [0x01#8]⟩ = .ok (.crc16 [0x01#8])) ∧
    rejectingState.phase = .idle ∧
      rejectingState.host = .issue ⟨0x00#8, .oSeq []⟩ :: [.issue ⟨0x03#8, .oSeq []⟩] ∧
      HostOnlyIssues [.issue ⟨0x03#8, .oSeq []⟩] ∧
      decode rejectingState.config.maxSeqLen ⟨0x00#8, .oSeq []⟩ = .error .illegalCommand :=
  ⟨⟨rfl, rfl, hostOnlyIssues_cons _ _, by decide⟩, rfl, rfl, hostOnlyIssues_cons _ _, by decide⟩

/-- PARITY8 runs 8 iterations: 9 waits are all passed over, and of 10 one is left. -/
theorem witness_HostWaitsDoNotDisturbACommand :
    (∀ n, ({ State.reset with host := .issue ⟨0x02#8, .oByte 0#8⟩ :: (List.replicate n .wait ++ []) } : State).host =
      .issue ⟨0x02#8, .oByte 0#8⟩ :: (List.replicate n .wait ++ [])) ∧
    State.reset.phase = .idle ∧ HostOnlyIssues [] ∧
    decode State.reset.config.maxSeqLen ⟨0x02#8, .oByte 0#8⟩ = .ok (.parity8 0#8) ∧
    9 - (iterations (.parity8 0#8) + 1) = 0 ∧ 10 - (iterations (.parity8 0#8) + 1) = 1 :=
  ⟨fun _ => rfl, rfl, fun _ h => (by cases h), by decide, by decide, by decide⟩

theorem witness_IterationCountsOfTheCommands :
    (([0xFF#8, 0xFF#8] : List Byte).length : Int) = 2 ∧ 2 ≤ ([0xFF#8, 0xFF#8] : List Byte).length := by decide

theorem witness_OperandBytesFollowTheFormat :
    decode none ⟨0x07#8, .oRecv [0xFF#8, 0xFF#8] 2⟩ = .ok (.receive [0xFF#8, 0xFF#8] 2) ∧
    opFormat 0x01#8 = some .byte ∧ opFormat 0x05#8 = some .hdr ∧ opFormat 0x03#8 = some .seq ∧
    opFormat 0x07#8 = some .recv := by decide

end Sys2Proof.Tests
end

section
/-! The engine's state over a run: the loops of the commands, the invariant, and the two views of a step. -/

namespace Sys2Proof.Proofs

open Sys2Proof.Machine Sys2Proof.Safety Sys2Proof.Laws

/-! ### The machine's functions and the reference functions of Safety -/

theorem nib_eq_digitOf : ∀ d : BitVec 4, nib d = digitOf d.toNat := by decide

theorem hex2_eq_twoDigits (v : Byte) : hex2 v = twoDigits v := by
  have hhi : (highNibble v).toNat = v.toNat / 16 := by
    simp only [highNibble, BitVec.extractLsb'_toNat, Nat.shiftRight_eq_div_pow]
    omega
  have hlo : (lowNibble v).toNat = v.toNat % 16 := by simp [lowNibble]
  simp [hex2, twoDigits, nib_eq_digitOf, hhi, hlo]

theorem dumpElem_eq_hexElement (b : Byte) : dumpElem b = hexElement b := by
  simp [dumpElem, hexElement, hex2_eq_twoDigits]

theorem byteSum_append_singleton (s : List Byte) (b : Byte) : byteSum (s ++ [b]) = byteSum s + b.toNat := by
  simp [byteSum]

/-- The wrapping sum of LRC is the sum of the bytes mod 256 (R119, R120). -/
theorem lrcSum_toNat (s : List Byte) : (lrcSum s).toNat = byteSum s % 256 := by
  induction s using List.reverseRecOn with
  | nil => rfl
  | append_singleton s b ih =>
    have hstep : lrcSum (s ++ [b]) = lrcSum s + b := by simp [lrcSum, lrcAdd]
    rw [hstep, BitVec.toNat_add, ih, byteSum_append_singleton]
    omega

@[simp] theorem joinedDump_nil : joinedDump [] = [] := rfl

@[simp] theorem joinedDump_singleton (b : Byte) : joinedDump [b] = hexElement b := by
  simp [joinedDump]

theorem joinedDump_cons (b : Byte) {p : List Byte} (hp : p ≠ []) :
    joinedDump (b :: p) = hexElement b ++ [0x2C#8, 0x20#8] ++ joinedDump p := by
  rw [joinedDump, List.map_cons, List.intercalate_cons_of_ne_nil (by simpa using hp), joinedDump]

/-- One more element at the end of the reference text is the piece that DUMP's loop appends (R153). -/
theorem joinedDump_append_singleton (p : List Byte) (b : Byte) :
    joinedDump (p ++ [b]) = joinedDump p ++ dumpPiece p.length b := by
  induction p with
  | nil => simp [dumpPiece, dumpElem_eq_hexElement]
  | cons a p ih =>
    cases p with
    | nil => simp [joinedDump_cons, dumpPiece, dumpSep, dumpElem_eq_hexElement]
    | cons a' p =>
      rw [List.cons_append, joinedDump_cons a (by simp), ih, joinedDump_cons a (by simp)]
      simp [dumpPiece]

theorem joinedDump_append (p q : List Byte) :
    joinedDump (p ++ q) = joinedDump p ++ dumpFrom p.length q := by
  induction q generalizing p with
  | nil => simp [dumpFrom]
  | cons b q ih =>
    have h := ih (p ++ [b])
    rw [joinedDump_append_singleton] at h
    simpa [dumpFrom] using h

theorem dumpText_eq_joinedDump (s : List Byte) : dumpText s = joinedDump s :=
  (joinedDump_append [] s).symm

/-! ### The loop of PARITY8 -/

/-- `psh` and `pcnt` after `k` iterations of PARITY_LOOP (R111). -/
def ParityLoop (v : Byte) (k : Nat) (p : Byte × BitVec 4) : Prop :=
  p.1 = v <<< k ∧ p.2.toNat = (List.range k).countP (fun j => v.getLsbD (7 - j))

theorem loopOk_parity8_iff {v : Byte} {k : Nat} {d : Datapath} :
    LoopOk (.parity8 v) k d ↔ ParityLoop v k (d.psh, d.pcnt) := Iff.rfl

theorem parityLoop_zero (v : Byte) : ParityLoop v 0 (v, 0#4) := by
  simp [ParityLoop]

theorem parityLoop_step {v : Byte} {k : Nat} {p : Byte × BitVec 4} (hk : k < 8) (h : ParityLoop v k p) :
    ParityLoop v (k + 1) (parityStep p) := by
  obtain ⟨hsh, hcnt⟩ := h
  have htop : p.1.getLsbD 7 = v.getLsbD (7 - k) := by
    rw [hsh, BitVec.getLsbD_shiftLeft]
    simp
    omega
  have hle : (List.range k).countP (fun j => v.getLsbD (7 - j)) ≤ k := by
    simpa using List.countP_le_length (p := fun j => v.getLsbD (7 - j)) (l := List.range k)
  refine ⟨?_, ?_⟩
  · simp [parityStep, hsh, BitVec.shiftLeft_add]
  · rw [List.range_succ, List.countP_append, List.countP_singleton, ← hcnt, ← htop]
    rw [← hcnt] at hle
    cases h7 : p.1.getLsbD 7
    · simp only [parityStep, h7]
      simp
    · simp only [parityStep, h7, if_true, BitVec.toNat_add, BitVec.toNat_ofNat]
      omega

theorem parityLoop_iterate (v : Byte) (k : Nat) (hk : k ≤ 8) : ParityLoop v k (parityStep^[k] (v, 0#4)) := by
  induction k with
  | zero => exact parityLoop_zero v
  | succ k ih =>
    rw [Function.iterate_succ_apply']
    exact parityLoop_step hk (ih (by omega))

/-- The loop invariant after the eighth iteration fixes the count. -/
theorem pcnt_eq_parityCount {v : Byte} {p : Byte × BitVec 4} (h : ParityLoop v 8 p) : p.2 = parityCount v :=
  BitVec.eq_of_toNat_eq (h.2.trans (parityLoop_iterate v 8 le_rfl).2.symm)

/-! ### The loop of CRC_CORE -/

/-- At a byte boundary the register is the CRC of the bytes folded in. -/
theorem crcAfter_mul_eight (p : List Byte) (q : Nat) : crcAfter p (8 * q) = crcCore (p.take q) := by
  have hmod : 8 * q % 8 = 0 := by omega
  have hdiv : 8 * q / 8 = q := by omega
  simp only [crcAfter, hmod, hdiv]

theorem crcAfter_all (p : List Byte) : crcAfter p (8 * p.length) = crcCore p := by
  rw [crcAfter_mul_eight, List.take_length]

/-- The register after one more bit iteration: the byte under way, entered and shifted once more. -/
theorem crcAfter_succ {p : List Byte} {k : Nat} {b : Byte} (hb : p[k / 8]? = some b) :
    crcAfter p (k + 1) = crcBit^[k % 8 + 1] (crcXor (crcCore (p.take (k / 8))) b) := by
  by_cases hlast : k % 8 = 7
  · have hk : k + 1 = 8 * (k / 8 + 1) := by omega
    rw [hlast, hk, crcAfter_mul_eight, List.take_add_one, hb, crcCore_append]
    rfl
  · have hmod : (k + 1) % 8 = k % 8 + 1 := by omega
    have hdiv : (k + 1) / 8 = k / 8 := by omega
    simp only [crcAfter, hmod, hdiv, hb]

/-- The byte under way stands in the register once it has entered at `bitk = 0`. -/
theorem crcLoop_entered {p : List Byte} {k : Nat} {d : Datapath} {b : Byte} (h : CrcLoop p k d)
    (hb : p[k / 8]? = some b) :
    (if d.bitk = 0#4 then crcXor d.crc b else d.crc) =
      crcBit^[k % 8] (crcXor (crcCore (p.take (k / 8))) b) := by
  obtain ⟨-, hbit, hcrc⟩ := h
  cases hj : k % 8 with
  | zero =>
    have hz : d.bitk = 0#4 := BitVec.eq_of_toNat_eq (hbit.trans hj)
    simp [hz, hcrc, crcAfter, hj]
  | succ j =>
    have hz : d.bitk ≠ 0#4 := fun h0 => by simp [h0, hj] at hbit
    simp [hz, hcrc, crcAfter, hj, hb]

theorem crcLoop_start (p : List Byte) (d : Datapath) : CrcLoop p 0 { d with crc := crcInit, bitk := 0#4, idx := 0 } :=
  ⟨rfl, rfl, rfl⟩

theorem crcLoop_iteration {p : List Byte} {k : Nat} {d : Datapath} (hk : k < 8 * p.length) (h : CrcLoop p k d) :
    CrcLoop p (k + 1) (crcIteration p d) := by
  obtain ⟨b, hb⟩ : ∃ b, p[k / 8]? = some b := ⟨_, List.getElem?_eq_getElem (by omega)⟩
  have hc := crcLoop_entered h hb
  obtain ⟨hidx, hbit, -⟩ := h
  have hread : readIn p d.idx = some b := by rw [hidx]; exact hb
  simp only [crcIteration, hread, hc, ← Function.iterate_succ_apply', ← crcAfter_succ hb]
  by_cases h7 : d.bitk = 7#4
  · have hmod : k % 8 = 7 := by rw [← hbit, h7]; rfl
    rw [if_pos h7]
    exact ⟨by simp only; omega, by simp only [BitVec.toNat_ofNat]; omega, rfl⟩
  · have hne : d.bitk.toNat ≠ 7 := fun h => h7 (BitVec.eq_of_toNat_eq h)
    rw [if_neg h7]
    exact ⟨by simp only; omega, by simp only [BitVec.toNat_add, BitVec.toNat_ofNat]; omega, rfl⟩

@[simp] theorem crcIteration_out (p : List Byte) (d : Datapath) : (crcIteration p d).out = d.out := by
  unfold crcIteration
  cases readIn p d.idx with
  | none => rfl
  | some b => by_cases h : d.bitk = 7#4 <;> simp [h]

theorem crc_eq_crcCore {p : List Byte} {d : Datapath} (h : CrcLoop p (8 * p.length) d) : d.crc = crcCore p :=
  h.2.2.trans (crcAfter_all p)

/-! ### The registers of a command in flight -/

theorem loopOk_startRegs (i : Instr) (d : Datapath) : LoopOk i 0 (startRegs i d) := by
  cases i with
  | bin2ascii v => trivial
  | parity8 v => exact loopOk_parity8_iff.mpr (parityLoop_zero v)
  | crc16 s => exact crcLoop_start s d
  | lrc s => exact ⟨rfl, rfl, rfl⟩
  | build h => exact ⟨crcLoop_start (hdrBytes h) { d with out := [] }, rfl⟩
  | dump s => exact ⟨rfl, rfl⟩
  | receive s n => exact crcLoop_start (payloadZone s) d

theorem length_payloadZone (s : List Byte) : (payloadZone s).length = s.length - 2 := by
  simp [payloadZone]

/-- A RECEIVE has at most the bit iterations of its payload zone (R235). -/
theorem iterations_receive_le (s : List Byte) (n : Int) :
    iterations (.receive s n) ≤ 8 * (payloadZone s).length := by
  rw [length_payloadZone, iterations]
  split <;> omega

theorem lrcLoop_iteration {s : List Byte} {k : Nat} {d : Datapath} (hk : k < s.length)
    (h : LoopOk (.lrc s) k d) : LoopOk (.lrc s) (k + 1) (lrcIteration s d) := by
  obtain ⟨hidx, hacc, hout⟩ := h
  have hread : readIn s d.idx = some s[k] := by rw [hidx]; exact List.getElem?_eq_getElem hk
  simp only [lrcIteration, hread]
  refine ⟨by simp [hidx], ?_, hout⟩
  simp only [lrcAdd, BitVec.toNat_add, hacc]
  rw [← List.take_concat_get' s k hk, byteSum_append_singleton]
  omega

theorem dumpLoop_iteration {s : List Byte} {k : Nat} {d : Datapath} (hk : k < s.length)
    (h : LoopOk (.dump s) k d) : LoopOk (.dump s) (k + 1) (dumpIteration s d) := by
  obtain ⟨hidx, hout⟩ := h
  have hread : readIn s d.idx = some s[k] := by rw [hidx]; exact List.getElem?_eq_getElem hk
  simp only [dumpIteration, hread]
  refine ⟨by simp [hidx], ?_⟩
  have hlen : (s.take k).length = k := by simp; omega
  rw [← List.take_concat_get' s k hk, joinedDump_append_singleton, hlen]
  simp [hidx, hout]

/-- One iteration takes the registers from the partial result after `k` iterations to the one after `k + 1`. -/
theorem loopOk_iteration {i : Instr} {k : Nat} {d : Datapath} (hk : k < iterations i) (h : LoopOk i k d) :
    LoopOk i (k + 1) (iteration i d) := by
  cases i with
  | bin2ascii v => trivial
  | parity8 v => exact loopOk_parity8_iff.mpr (parityLoop_step hk (loopOk_parity8_iff.mp h))
  | crc16 s => exact crcLoop_iteration hk h
  | lrc s => exact lrcLoop_iteration hk h
  | build hd => exact ⟨crcLoop_iteration (p := hdrBytes hd) hk h.1, (crcIteration_out _ d).trans h.2⟩
  | dump s => exact dumpLoop_iteration hk h
  | receive s n =>
    exact crcLoop_iteration (p := payloadZone s) (Nat.lt_of_lt_of_le hk (iterations_receive_le s n)) h

/-- A RECEIVE that does not reach step 2 does not look at the CRC (R155). -/
theorem receiveEnd_eq_of_not_checked {s : List Byte} {n : Int} (h : ¬ ((s.length : Int) = n ∧ 2 ≤ s.length))
    (r r' : Half) : receiveEnd s n r = receiveEnd s n r' := by
  unfold receiveEnd
  by_cases hn : (s.length : Int) = n
  · have h2 : s.length < 2 := by omega
    simp [hn, h2]
  · simp [hn]

/-- After its last iteration a command's registers hold its answer. -/
theorem endFromRegs_eq_answerOf {i : Instr} {d : Datapath} (h : LoopOk i (iterations i) d) :
    endFromRegs i d = answerOf i := by
  cases i with
  | bin2ascii v => rfl
  | parity8 v =>
    have hcnt : d.pcnt = parityCount v := pcnt_eq_parityCount (loopOk_parity8_iff.mp h)
    simp only [endFromRegs, answerOf, hcnt]
  | crc16 s => simp only [endFromRegs, answerOf, crc_eq_crcCore h]
  | lrc s =>
    have hacc : d.acc = lrcSum s := by
      apply BitVec.eq_of_toNat_eq
      rw [h.2.1, lrcSum_toNat, iterations, List.take_length]
    simp only [endFromRegs, answerOf, hacc]
  | build hd =>
    have hcrc : d.crc = crcCore (hdrBytes hd) := crc_eq_crcCore h.1
    simp only [endFromRegs, answerOf, buildFrame, hcrc]
  | dump s =>
    have hout : d.out = dumpText s := by
      rw [h.2, iterations, List.take_length, dumpText_eq_joinedDump]
    simp only [endFromRegs, answerOf, hout]
  | receive s n =>
    by_cases hc : (s.length : Int) = n ∧ 2 ≤ s.length
    · have hit : iterations (.receive s n) = 8 * (payloadZone s).length := by
        rw [length_payloadZone, iterations, if_pos hc]
      rw [hit] at h
      have hcrc : d.crc = crcCore (payloadZone s) := crc_eq_crcCore h
      simp only [endFromRegs, answerOf, hcrc]
    · exact receiveEnd_eq_of_not_checked hc _ _

/-! ### Decoding -/

theorem opOf_eq_of_instrOf {op : Byte} {o : Operand} {i : Instr} (h : instrOf op o = some i) : opOf i = op := by
  cases o with
  | oByte v | oSeq s | oHdr hd | oRecv s n =>
    rw [instrOf] at h
    split_ifs at h
    all_goals
      cases h
      exact ‹op = _›.symm

theorem wf_of_decode {m : Option Nat} {c : Cmd} {i : Instr} (h : decode m c = .ok i) : i.wf m = true := by
  unfold decode at h
  split at h
  · cases h
  · split at h
    · cases h; assumption
    · cases h

/-- A command that carries a sequence has a format with one. -/
theorem opFormat_of_seqLen {i : Instr} {n : Nat} (h : i.seqLen = some n) :
    opFormat (opOf i) = some .seq ∨ opFormat (opOf i) = some .recv := by
  cases i with
  | bin2ascii v | parity8 v | build hd => cases h
  | crc16 s | lrc s | dump s => exact .inl rfl
  | receive s m => exact .inr rfl

/-- A command can only break a bound that there is, with a sequence that it carries. -/
theorem bound_and_seqLen_of_not_wf {m : Option Nat} {i : Instr} (h : ¬ i.wf m = true) :
    m ≠ none ∧ ∃ n, i.seqLen = some n := by
  cases m with
  | none => exact absurd rfl h
  | some b =>
    cases hs : i.seqLen with
    | none => simp [Instr.wf, hs] at h
    | some n => exact ⟨nofun, n, rfl⟩

theorem recordOk_of_decode_error {cfg : Config} {c : Cmd} {k : FaultKind}
    (h : decode cfg.maxSeqLen c = .error k) : RecordOk cfg ⟨c.op, k⟩ := by
  unfold decode at h
  split at h
  · cases h; trivial
  next i hi =>
    split at h
    · cases h
    next hwf =>
      cases h
      obtain ⟨hm, n, hn⟩ := bound_and_seqLen_of_not_wf hwf
      exact ⟨hm, opOf_eq_of_instrOf hi ▸ opFormat_of_seqLen hn⟩

/-! ### The answers of the commands are right -/

theorem digitOf_mem_hexDigits {n : Nat} (h : n < 16) : digitOf n ∈ hexDigits := by
  have hlen : n < hexDigits.length := h
  rw [digitOf, List.getD_eq_getElem _ _ hlen]
  exact List.getElem_mem hlen

theorem emitted_of_mem_dumpElem {b c : Byte} (h : c ∈ dumpElem b) : Emitted c := by
  have hhi : digitOf (b.toNat / 16) ∈ hexDigits := digitOf_mem_hexDigits (by omega)
  have hlo : digitOf (b.toNat % 16) ∈ hexDigits := digitOf_mem_hexDigits (by omega)
  simp only [dumpElem, hex2_eq_twoDigits, twoDigits, List.cons_append, List.nil_append, List.mem_cons,
    List.not_mem_nil, or_false] at h
  obtain rfl | rfl | rfl | rfl := h
  · exact .inl (by decide)
  · exact .inr (.inl rfl)
  · exact .inl hhi
  · exact .inl hlo

theorem emitted_of_mem_dumpPiece {idx : Nat} {b c : Byte} (h : c ∈ dumpPiece idx b) : Emitted c := by
  rw [dumpPiece, List.mem_append] at h
  obtain hsep | helem := h
  · split at hsep
    · simp only [dumpSep, List.mem_cons, List.not_mem_nil, or_false] at hsep
      exact .inr (.inr hsep)
    · cases hsep
  · exact emitted_of_mem_dumpElem helem

theorem emitted_of_mem_dumpFrom {s : List Byte} {idx : Nat} {c : Byte} (h : c ∈ dumpFrom idx s) : Emitted c := by
  induction s generalizing idx with
  | nil => cases h
  | cons b s ih =>
    rw [dumpFrom, List.mem_append] at h
    exact h.elim emitted_of_mem_dumpPiece ih

/-- The characters BIN2ASCII accepts are the hexadecimal digits (R100, R67). -/
theorem mem_hexDigits_of_range {v : Byte} (h : (0x30#8 ≤ v ∧ v ≤ 0x39#8) ∨ (0x41#8 ≤ v ∧ v ≤ 0x46#8)) :
    v ∈ hexDigits := by
  simp only [hexDigits, List.cons_append, List.nil_append, List.mem_cons, List.not_mem_nil, or_false]
  bv_omega

theorem resOk_bin2asciiRes (v : Byte) : ResOk (bin2asciiRes v) := by
  unfold bin2asciiRes
  split
  · exact ⟨rfl, .inl rfl⟩
  · split
    next hv => exact ⟨rfl, rfl, mem_hexDigits_of_range hv⟩
    · exact ⟨rfl, .inr rfl⟩

theorem resOk_lrcRes (acc : Byte) : ResOk (lrcRes acc) := ⟨rfl, rfl, hex2_eq_twoDigits _⟩

theorem resOk_buildRes (h : Hdr) : ResOk (buildRes (buildFrame h)) := ⟨rfl, rfl, rfl, show 2 ≤ 8 by decide, rfl⟩

theorem resOk_dumpRes (s : List Byte) : ResOk (dumpRes (dumpText s)) :=
  ⟨rfl, rfl, fun _ hc => emitted_of_mem_dumpFrom hc⟩

/-- Every result of a command has the form and the content of its command. -/
theorem resOk_of_answerOf {i : Instr} {r : Res} (h : answerOf i = .ok r) : ResOk r := by
  cases i with
  | bin2ascii v => cases h; exact resOk_bin2asciiRes v
  | parity8 v => cases h; exact ⟨rfl, rfl⟩
  | crc16 s => cases h; exact ⟨rfl, rfl⟩
  | lrc s => cases h; exact resOk_lrcRes _
  | build hd => cases h; exact resOk_buildRes hd
  | dump s => cases h; exact resOk_dumpRes s
  | receive s n =>
    obtain ⟨-, he⟩ | ⟨-, -, he⟩ | ⟨-, -, -, he⟩ | ⟨-, -, -, he⟩ :=
      receiveEnd_cases s n (crcCore (payloadZone s)) <;>
      cases he.symm.trans h
    · exact ⟨rfl, .inr (.inl rfl), by decide⟩
    · exact ⟨rfl, .inl rfl, by decide⟩
    · exact ⟨rfl, .inr (.inr rfl), by decide⟩

/-- The only fault of a command that has decoded is RECEIVE's ShortFrame (R158). -/
theorem recordOk_of_answerOf {i : Instr} {k : FaultKind} (cfg : Config) (h : answerOf i = .error k) :
    RecordOk cfg ⟨opOf i, k⟩ := by
  cases i with
  | bin2ascii v | parity8 v | crc16 s | lrc s | build hd | dump s => cases h
  | receive s n =>
    obtain ⟨-, he⟩ | ⟨-, -, he⟩ | ⟨-, -, -, he⟩ | ⟨-, -, -, he⟩ :=
      receiveEnd_cases s n (crcCore (payloadZone s)) <;>
      cases he.symm.trans h
    rfl

/-! ### Taking a command -/

theorem stepWith_issue_of_idle (take : Cmd → State → Host.Outcome State Fault Refusal) {s : State} {c : Cmd}
    {rest : List HostEvent} (hp : s.phase = .idle) (hh : s.host = .issue c :: rest) :
    stepWith take s = take c { s with host := rest } := by
  simp only [stepWith, hh, hp]

theorem perform_of_ok {c : Cmd} {s : State} {i : Instr} (h : decode s.config.maxSeqLen c = .ok i) :
    perform c s = exec i s := by
  simp only [perform, h]

theorem perform_of_error {c : Cmd} {s : State} {k : FaultKind} (h : decode s.config.maxSeqLen c = .error k) :
    perform c s = .next (raiseFault c.op k s) := by
  simp only [perform, h]

theorem accept_of_ok {c : Cmd} {s : State} {i : Instr} (h : decode s.config.maxSeqLen c = .ok i) :
    accept c s = .next (beginCommand i s) := by
  simp only [accept, h]

theorem accept_of_error {c : Cmd} {s : State} {k : FaultKind} (h : decode s.config.maxSeqLen c = .error k) :
    accept c s = .next (raiseFault c.op k s) := by
  simp only [accept, h]

theorem step_of_decode_ok {s : State} {c : Cmd} {rest : List HostEvent} {i : Instr} (hp : s.phase = .idle)
    (hh : s.host = .issue c :: rest) (hd : decode s.config.maxSeqLen c = .ok i) :
    step s = exec i { s with host := rest } :=
  (stepWith_issue_of_idle perform hp hh).trans (perform_of_ok hd)

theorem step_of_decode_error {s : State} {c : Cmd} {rest : List HostEvent} {k : FaultKind} (hp : s.phase = .idle)
    (hh : s.host = .issue c :: rest) (hd : decode s.config.maxSeqLen c = .error k) :
    step s = .next (raiseFault c.op k { s with host := rest }) :=
  (stepWith_issue_of_idle perform hp hh).trans (perform_of_error hd)

theorem microStep_of_decode_ok {s : State} {c : Cmd} {rest : List HostEvent} {i : Instr} (hp : s.phase = .idle)
    (hh : s.host = .issue c :: rest) (hd : decode s.config.maxSeqLen c = .ok i) :
    microStep s = .next (beginCommand i { s with host := rest }) :=
  (stepWith_issue_of_idle accept hp hh).trans (accept_of_ok hd)

theorem microStep_of_decode_error {s : State} {c : Cmd} {rest : List HostEvent} {k : FaultKind}
    (hp : s.phase = .idle) (hh : s.host = .issue c :: rest) (hd : decode s.config.maxSeqLen c = .error k) :
    microStep s = .next (raiseFault c.op k { s with host := rest }) :=
  (stepWith_issue_of_idle accept hp hh).trans (accept_of_error hd)

/-- A command's meaning does not look at the phase, the command in flight or the registers. -/
theorem exec_ignores_engine (i : Instr) (s : State) (p : Phase) (f : Option InFlight) (d : Datapath) :
    exec i { s with phase := p, inflight := f, regs := d } = exec i s := by
  simp only [exec_eq_endCommand, endCommand_ignores_engine]

/-- The meaning of a command adds the same results and the same records in any two states (R32). -/
theorem exec_adds_the_same (i : Instr) (s u : State) :
    ∃ s' u' rs fs, exec i s = .next s' ∧ exec i u = .next u' ∧
      s'.results = s.results ++ rs ∧ u'.results = u.results ++ rs ∧
      s'.faultLog = s.faultLog ++ fs ∧ u'.faultLog = u.faultLog ++ fs := by
  simp only [exec_eq_endCommand]
  cases answerOf i with
  | ok r => exact ⟨_, _, [r], [], rfl, rfl, by simp⟩
  | error k => exact ⟨_, _, [], [⟨opOf i, k⟩], rfl, rfl, by simp⟩

/-! ### The invariant -/

/-- Everything delivered and everything logged is right: what `StateInv` asks beside `EngineInv`. -/
def AnswersOk (s : State) : Prop :=
  (∀ r ∈ s.results, ResOk r) ∧ ∀ f ∈ s.faultLog, RecordOk s.config f

theorem stateInv_iff (s : State) : StateInv s ↔ EngineInv s ∧ AnswersOk s := Iff.rfl

theorem answersOk_deliver {s : State} {r : Res} (h : AnswersOk s) (hr : ResOk r) : AnswersOk (deliver r s) := by
  refine ⟨fun r' hr' => ?_, h.2⟩
  obtain hold | rfl := by simpa using hr'
  · exact h.1 r' hold
  · exact hr

theorem answersOk_raiseFault {s : State} {op : Byte} {k : FaultKind} (h : AnswersOk s)
    (hk : RecordOk s.config ⟨op, k⟩) : AnswersOk (raiseFault op k s) := by
  refine ⟨h.1, fun f hf => ?_⟩
  obtain hold | rfl := by simpa using hf
  · exact h.2 f hold
  · exact hk

theorem engineInv_of_idle {s : State} (hp : s.phase = .idle) (hf : s.inflight = none) : EngineInv s := by
  simp only [EngineInv, hp, hf]

theorem engineInv_of_busy {s : State} {f : InFlight} (hp : s.phase = .busy) (hf : s.inflight = some f) :
    EngineInv s ↔ f.instr.wf s.config.maxSeqLen = true ∧ f.left ≤ iterations f.instr ∧
      LoopOk f.instr (iterations f.instr - f.left) s.regs := by
  simp only [EngineInv, hp, hf]

theorem busy_of_inflight {s : State} {f : InFlight} (h : EngineInv s) (hf : s.inflight = some f) :
    s.phase = .busy := by
  cases hp : s.phase with
  | idle => simp only [EngineInv, hp, hf] at h
  | busy => rfl

/-- The invariant does not look at what the host still does. -/
theorem stateInv_host (s : State) (rest : List HostEvent) : StateInv { s with host := rest } ↔ StateInv s := Iff.rfl

theorem stateInv_resetEngine {s : State} (h : AnswersOk s) : StateInv (resetEngine s) :=
  ⟨engineInv_of_idle rfl rfl, h.1, nofun⟩

theorem stateInv_raiseFault {s : State} {op : Byte} {k : FaultKind} (h : AnswersOk s)
    (hk : RecordOk s.config ⟨op, k⟩) : StateInv (raiseFault op k s) :=
  ⟨engineInv_of_idle rfl rfl, answersOk_raiseFault h hk⟩

/-- A command that ends with its answer leaves a state that meets the invariant. -/
theorem stateInv_endCommand {s : State} (i : Instr) (h : AnswersOk s) :
    StateInv (endCommand (opOf i) (answerOf i) s) := by
  cases ha : answerOf i with
  | ok r => exact ⟨engineInv_of_idle rfl rfl, answersOk_deliver (s := retire s) h (resOk_of_answerOf ha)⟩
  | error k => exact stateInv_raiseFault (s := retire s) h (recordOk_of_answerOf _ ha)

theorem engineInv_beginCommand {s : State} {i : Instr} (hwf : i.wf s.config.maxSeqLen = true) :
    EngineInv (beginCommand i s) := by
  rw [engineInv_of_busy rfl rfl]
  refine ⟨hwf, le_rfl, ?_⟩
  simpa [beginCommand] using loopOk_startRegs i s.regs

/-- One iteration of the command in flight keeps the registers in step with it. -/
theorem engineInv_iteration {s : State} {i : Instr} {k : Nat} (h : EngineInv s)
    (hf : s.inflight = some ⟨i, k + 1⟩) :
    EngineInv { s with inflight := some ⟨i, k⟩, regs := iteration i s.regs } := by
  have hp := busy_of_inflight h hf
  obtain ⟨hwf, hle, hloop⟩ := (engineInv_of_busy hp hf).mp h
  simp only at hwf hle hloop
  have hk : iterations i - k = iterations i - (k + 1) + 1 := by omega
  have hnext := loopOk_iteration (by omega) hloop
  rw [← hk] at hnext
  refine (engineInv_of_busy (f := ⟨i, k⟩) ?_ ?_).mpr ⟨hwf, Nat.le_of_succ_le hle, hnext⟩
  · exact hp
  · rfl

/-- With no iteration left the registers give the answer of the command in flight. -/
theorem endFromRegs_of_engineInv {s : State} {i : Instr} (h : EngineInv s) (hf : s.inflight = some ⟨i, 0⟩) :
    endFromRegs i s.regs = answerOf i := by
  obtain ⟨-, -, hloop⟩ := (engineInv_of_busy (busy_of_inflight h hf) hf).mp h
  exact endFromRegs_eq_answerOf hloop

theorem stateInv_advance {s t : State} (h : StateInv s) (ht : advance s = .next t) : StateInv t := by
  obtain ⟨hengine, hanswers⟩ := (stateInv_iff s).mp h
  obtain ⟨-, he⟩ | ⟨-, -, he⟩ | ⟨i, -, hf, he⟩ | ⟨i, k, -, hf, he⟩ := advance_cases s
  · cases he.symm.trans ht
    exact ⟨hengine, hanswers⟩
  · cases he.symm.trans ht
  · rw [endFromRegs_of_engineInv hengine hf] at he
    cases he.symm.trans ht
    exact stateInv_endCommand i hanswers
  · cases he.symm.trans ht
    exact ⟨engineInv_iteration hengine hf, hanswers⟩

theorem stateInv_perform {c : Cmd} {s t : State} (h : StateInv s) (ht : perform c s = .next t) : StateInv t := by
  cases hd : decode s.config.maxSeqLen c with
  | ok i =>
    rw [perform_of_ok hd, exec_eq_endCommand] at ht
    cases ht
    exact stateInv_endCommand i h.2
  | error k =>
    rw [perform_of_error hd] at ht
    cases ht
    exact stateInv_raiseFault h.2 (recordOk_of_decode_error hd)

theorem stateInv_accept {c : Cmd} {s t : State} (h : StateInv s) (ht : accept c s = .next t) : StateInv t := by
  cases hd : decode s.config.maxSeqLen c with
  | ok i =>
    rw [accept_of_ok hd] at ht
    cases ht
    exact ⟨engineInv_beginCommand (wf_of_decode hd), h.2⟩
  | error k =>
    rw [accept_of_error hd] at ht
    cases ht
    exact stateInv_raiseFault h.2 (recordOk_of_decode_error hd)

/-- A step keeps the invariant when its way of taking a command does. -/
theorem stateInv_stepWith {take : Cmd → State → Host.Outcome State Fault Refusal}
    (htake : ∀ {c s t}, StateInv s → take c s = .next t → StateInv t) {s t : State} (h : StateInv s)
    (ht : stepWith take s = .next t) : StateInv t := by
  obtain ⟨rest, -, he⟩ | ⟨-, he⟩ | ⟨rest, -, he⟩ | ⟨c, rest, -, -, he⟩ | ⟨c, rest, -, -, he⟩ :=
    stepWith_cases take s
  · cases he.symm.trans ht
    exact stateInv_resetEngine h.2
  · exact stateInv_advance h (he.symm.trans ht)
  · exact stateInv_advance ((stateInv_host s rest).mpr h) (he.symm.trans ht)
  · exact stateInv_advance h (he.symm.trans ht)
  · exact htake ((stateInv_host s rest).mpr h) (he.symm.trans ht)

/-! ### Runs of the micro-step view -/

theorem microRun_succ {k : Nat} {s t : State} (h : microStep s = .next t) : microRun (k + 1) s = microRun k t := by
  simp only [microRun, h]

theorem advance_of_none_left {s : State} {i : Instr} (hp : s.phase = .busy) (hf : s.inflight = some ⟨i, 0⟩) :
    advance s = .next (endCommand (opOf i) (endFromRegs i s.regs) s) := by
  simp only [advance, hp, busyStep, hf]

theorem advance_of_left {s : State} {i : Instr} {k : Nat} (hp : s.phase = .busy)
    (hf : s.inflight = some ⟨i, k + 1⟩) :
    advance s = .next { s with inflight := some ⟨i, k⟩, regs := iteration i s.regs } := by
  simp only [advance, hp, busyStep, hf]

/-- A Busy engine passes a wait over, or holds the command that is next; either way it goes on. -/
theorem microStep_of_busy {s : State} {n : Nat} {rest : List HostEvent} (hp : s.phase = .busy)
    (hh : s.host = List.replicate n .wait ++ rest) (hrest : HostOnlyIssues rest) :
    microStep s = advance { s with host := List.replicate (n - 1) .wait ++ rest } := by
  cases n with
  | succ n => simp only [microStep, stepWith, hh, List.replicate_succ, List.cons_append, Nat.add_sub_cancel]
  | zero =>
    have hs : { s with host := List.replicate (0 - 1) .wait ++ rest } = s := by
      rw [← hh]
    rw [hs]
    rw [List.replicate_zero, List.nil_append] at hh
    cases rest with
    | nil => simp only [microStep, stepWith, hh]
    | cons e rest =>
      obtain ⟨c, rfl⟩ := hrest e rfl
      simp only [microStep, stepWith, hh, hp]

/-- From any state whose registers are in step with the command in flight, the command ends as its meaning, with the
host's waits passed over, one a step. -/
theorem microRun_inflight {i : Instr} {k n : Nat} {rest : List HostEvent} {s : State} (hinv : EngineInv s)
    (hf : s.inflight = some ⟨i, k⟩) (hh : s.host = List.replicate n .wait ++ rest) (hrest : HostOnlyIssues rest) :
    microRun (k + 1) s = exec i { s with host := List.replicate (n - (k + 1)) .wait ++ rest } := by
  induction k generalizing n s with
  | zero =>
    have hp := busy_of_inflight hinv hf
    have hstep := (microStep_of_busy hp hh hrest).trans (advance_of_none_left hp hf)
    rw [microRun_succ hstep, exec_eq_endCommand, endFromRegs_of_engineInv hinv hf]
    rfl
  | succ k ih =>
    have hp := busy_of_inflight hinv hf
    have hstep := (microStep_of_busy hp hh hrest).trans (advance_of_left hp hf)
    have hinv' : EngineInv { s with
        inflight := some ⟨i, k⟩, regs := iteration i s.regs, host := List.replicate (n - 1) .wait ++ rest } :=
      engineInv_iteration hinv hf
    have hn : n - 1 - (k + 1) = n - (k + 1 + 1) := by omega
    rw [microRun_succ hstep, ih hinv' rfl rfl, hn]
    exact exec_ignores_engine i { s with host := _ } s.phase _ _

/-- A command accepted from Idle ends as its meaning in the state that accepted it. -/
theorem microRun_beginCommand {i : Instr} {n : Nat} {rest : List HostEvent} {s : State}
    (hwf : i.wf s.config.maxSeqLen = true) (hh : s.host = List.replicate n .wait ++ rest)
    (hrest : HostOnlyIssues rest) :
    microRun (iterations i + 1) (beginCommand i s) =
      exec i { s with host := List.replicate (n - (iterations i + 1)) .wait ++ rest } := by
  rw [microRun_inflight (engineInv_beginCommand hwf) rfl hh hrest]
  exact exec_ignores_engine i { s with host := _ } _ _ _

/-! ### The statements -/

/-- Settles O33: the reset state's fields as R34 gives them. -/
theorem resetStateIsIdleAndClean : Obligations.ResetStateIsIdleAndClean := ⟨rfl, rfl, rfl⟩

/-- Settles O35: with no host action left both views advance, and an Idle engine does nothing. -/
theorem idleEngineWaitsForTheHost : Obligations.IdleEngineWaitsForTheHost := by
  intro s hp hh
  have hadv : ∀ take, stepWith take s = .next s := fun take => by simp only [stepWith, hh, advance, hp]
  exact ⟨hadv perform, hadv accept⟩

/-- Settles O42: reset is Idle with nothing in flight, nothing delivered and nothing logged. -/
theorem invariantHoldsAtReset : Obligations.InvariantHoldsAtReset :=
  ⟨engineInv_of_idle rfl rfl, nofun, nofun⟩

/-- Settles O43, from the step by the host's next action and the meaning of a command performed whole. -/
theorem stepKeepsTheInvariant : Obligations.StepKeepsTheInvariant :=
  fun _ _ h ht => stateInv_stepWith stateInv_perform h ht

/-- Settles O44, from the step by the host's next action and the start values of an accepted command. -/
theorem microStepKeepsTheInvariant : Obligations.MicroStepKeepsTheInvariant :=
  fun _ _ h ht => stateInv_stepWith stateInv_accept h ht

/-- Settles O38: both states decode the command alike, and its meaning or its decode fault adds the same to both. -/
theorem answersDoNotDependOnHistory : Obligations.AnswersDoNotDependOnHistory := by
  refine ⟨exec_adds_the_same, ?_⟩
  intro s u c ps pu hs hu hcfg hps hpu
  cases hd : decode s.config.maxSeqLen c with
  | ok i =>
    rw [step_of_decode_ok hs hps hd, step_of_decode_ok hu hpu (hcfg ▸ hd)]
    exact exec_adds_the_same i { s with host := ps } { u with host := pu }
  | error k =>
    rw [step_of_decode_error hs hps hd, step_of_decode_error hu hpu (hcfg ▸ hd)]
    exact ⟨_, _, [], [⟨c.op, k⟩], rfl, rfl, by simp⟩

/-- Settles O50: the accepting step, then the run of the command in flight over the waits. -/
theorem hostWaitsDoNotDisturbACommand : Obligations.HostWaitsDoNotDisturbACommand := by
  intro s c i n rest hp hh hrest hd
  have hatomic : step { s with host := .issue c :: (List.replicate (n - (iterations i + 1)) .wait ++ rest) } =
      exec i { s with host := List.replicate (n - (iterations i + 1)) .wait ++ rest } := step_of_decode_ok hp rfl hd
  rw [microRun_succ (microStep_of_decode_ok hp hh hd), hatomic]
  exact microRun_beginCommand (wf_of_decode hd) rfl hrest

/-- Settles O47: a command that decodes is the case of no waits; one that does not takes its fault in either view. -/
theorem microStepsAgreeWithTheAtomicStep : Obligations.MicroStepsAgreeWithTheAtomicStep := by
  intro s c rest hp hh hrest
  refine ⟨fun i hd => ?_, fun k hd => ?_⟩
  · have hrun := hostWaitsDoNotDisturbACommand s c i 0 rest hp hh hrest hd
    rwa [Nat.zero_sub, List.replicate_zero, List.nil_append, ← hh] at hrun
  · rw [microStep_of_decode_error hp hh hd, step_of_decode_error hp hh hd]

/-- Settles O48: the run of the command in flight with no waits. -/
theorem commandInFlightEndsAsItsMeaning : Obligations.CommandInFlightEndsAsItsMeaning := by
  intro s f hinv hf hissues
  have hrun := microRun_inflight (n := 0) hinv.1 hf rfl hissues
  rwa [Nat.zero_sub] at hrun

end Sys2Proof.Proofs
end

section
/-! The order of bits and bytes in a sequence, and the order of commands in a run (20_memory.md). -/

namespace Sys2Proof.Proofs

open Sys2Proof.Machine Sys2Proof.Safety Sys2Proof.Laws

/-! ### The CRC as a division by one message bit at a time -/

/-- CRC_BIT with `v` already in the register: bit 0 of `v` enters the division, the rest of `v` waits one place lower. -/
theorem crcBit_xor (c v : Half) : crcBit (c ^^^ v) = serialBit c (v.getLsbD 0) ^^^ (v >>> 1) := by
  simp only [crcBit, serialBit, crcPoly, BitVec.getLsbD_xor, BitVec.ushiftRight_xor_distrib]
  split
  · rw [BitVec.xor_assoc, BitVec.xor_comm (v >>> 1), ← BitVec.xor_assoc]
  · rfl

/-- `k` times CRC_BIT with `v` already in the register: the low `k` bits of `v` have entered the division, bit 0 first. -/
theorem crcBit_iterate_xor (c v : Half) (k : Nat) :
    crcBit^[k] (c ^^^ v) = ((List.range k).map v.getLsbD).foldl serialBit c ^^^ (v >>> k) := by
  induction k with
  | zero => simp
  | succ k ih =>
    rw [Function.iterate_succ_apply', ih, crcBit_xor, ← BitVec.shiftRight_add, BitVec.getLsbD_ushiftRight,
      List.range_succ, List.map_append, List.foldl_append]
    rfl

/-- CRC_BYTE is the division by the byte's eight bits, bit 0 first (R45). -/
theorem crcByte_eq_serial (c : Half) (b : Byte) : crcByte c b = (bitsLsbFirst b).foldl serialBit c := by
  have hbits : (List.range 8).map (b.zeroExtend 16).getLsbD = bitsLsbFirst b := by
    refine List.map_congr_left fun k hk => ?_
    have hk16 : k < 16 := (List.mem_range.mp hk).trans (by decide)
    simp [hk16]
  have hrest : b.zeroExtend 16 >>> 8 = 0#16 := by
    apply BitVec.eq_of_toNat_eq
    rw [BitVec.toNat_ushiftRight, BitVec.toNat_setWidth, Nat.shiftRight_eq_div_pow, BitVec.toNat_ofNat]
    omega
  rw [crcByte, crcXor, crcBit_iterate_xor, hbits, hrest, BitVec.xor_zero]

/-- Settles O13, byte by byte: CRC_CORE folds bytes, and each byte is the division by its own eight bits. -/
theorem crcIsTheBitSerialDivision : Obligations.CrcIsTheBitSerialDivision := by
  intro p
  rw [crcCore, serialCrc, List.foldl_flatMap]
  simp only [← crcByte_eq_serial]
  rfl

/-! ### The words of a built frame -/

/-- A frame that BUILD delivers is the frame of its record. -/
theorem eq_buildFrame_of_delivered {h : Hdr} {s t : State} {f : List Byte} (ht : exec (.build h) s = .next t)
    (hres : t.results = s.results ++ [⟨0x05#8, .ok, .frame f⟩]) : f = buildFrame h := by
  rw [exec_eq_endCommand] at ht
  cases ht
  cases List.append_cancel_left hres
  rfl

/-- A word composed of two bytes, high byte first (R44). -/
theorem toNat_append_bytes (hi lo : Byte) : (hi ++ lo).toNat = hi.toNat * 256 + lo.toNat := by
  rw [BitVec.toNat_append, ← Nat.shiftLeft_add_eq_or_of_lt lo.isLt, Nat.shiftLeft_eq]

/-- Settles O22: the record's bytes stand in the frame in declared order. -/
theorem builtFrameWordsAreHighByteFirst : Obligations.BuiltFrameWordsAreHighByteFirst := by
  intro h s t f ht hres
  rw [eq_buildFrame_of_delivered ht hres]
  exact ⟨h.sah, h.sal, h.rch, h.rcl, rfl, rfl, rfl, rfl, toNat_append_bytes _ _, toNat_append_bytes _ _⟩

/-! ### Runs of commands -/

theorem opOf_eq_of_decode {m : Option Nat} {c : Cmd} {i : Instr} (h : decode m c = .ok i) : opOf i = c.op := by
  unfold decode at h
  split at h
  · cases h
  next hi =>
    split at h
    · cases h; exact opOf_eq_of_instrOf hi
    · cases h

/-- What a step that takes a command from Idle adds to the state: the command's result or its record, both functions of
the command and the bound alone (R32). -/
theorem step_issue {s : State} {c : Cmd} {rest : List HostEvent} (hp : s.phase = .idle)
    (hh : s.host = .issue c :: rest) :
    ∃ t, step s = .next t ∧ t.phase = .idle ∧ t.host = rest ∧ t.config = s.config ∧
      t.results = s.results ++ [c].filterMap (resultOf s.config.maxSeqLen) ∧
      t.faultLog = s.faultLog ++ [c].filterMap (recordOf s.config.maxSeqLen) := by
  cases hd : decode s.config.maxSeqLen c with
  | error k =>
    exact ⟨_, step_of_decode_error hp hh hd, rfl, rfl, rfl, by simp [resultOf, hd], by simp [recordOf, hd]⟩
  | ok i =>
    refine ⟨_, (step_of_decode_ok hp hh hd).trans (exec_eq_endCommand i _), ?_⟩
    cases ha : answerOf i with
    | ok r => exact ⟨rfl, rfl, rfl, by simp [resultOf, hd, ha], by simp [recordOf, hd, ha]⟩
    | error k =>
      exact ⟨rfl, rfl, rfl, by simp [resultOf, hd, ha], by simp [recordOf, hd, ha, opOf_eq_of_decode hd]⟩

/-- A run of a list of commands from Idle adds their results and their records, each in issue order (R237). -/
theorem core_run_issues {cs : List Cmd} {s : State} (hp : s.phase = .idle) (hh : s.host = cs.map HostEvent.issue) :
    ∃ t, core.run cs.length s = .next t ∧ t.phase = .idle ∧ t.host = [] ∧ t.config = s.config ∧
      t.results = s.results ++ cs.filterMap (resultOf s.config.maxSeqLen) ∧
      t.faultLog = s.faultLog ++ cs.filterMap (recordOf s.config.maxSeqLen) := by
  induction cs generalizing s with
  | nil => exact ⟨s, rfl, hp, hh, rfl, by simp, by simp⟩
  | cons c cs ih =>
    obtain ⟨u, hstep, hpu, hhu, hcfgu, hresu, hlogu⟩ := step_issue hp hh
    obtain ⟨t, hrun, hpt, hht, hcfgt, hrest, hlogt⟩ := ih hpu hhu
    refine ⟨t, (core_run_succ _ s u hstep).trans hrun, hpt, hht, hcfgt.trans hcfgu, ?_, ?_⟩
    · rw [hrest, hresu, hcfgu, List.append_assoc, ← List.filterMap_append, List.singleton_append]
    · rw [hlogt, hlogu, hcfgu, List.append_assoc, ← List.filterMap_append, List.singleton_append]

/-- Settles O39: each command's answer depends on the command and the bound alone, so swapping the commands permutes
what the run adds. -/
theorem commandOrderOnlyOrdersTheAnswers : Obligations.CommandOrderOnlyOrdersTheAnswers := by
  intro s a b hp
  obtain ⟨t, hrunt, -, -, -, hrest, hlogt⟩ :=
    core_run_issues (cs := [a, b]) (s := { s with host := [.issue a, .issue b] }) hp rfl
  obtain ⟨u, hrunu, -, -, -, hresu, hlogu⟩ :=
    core_run_issues (cs := [b, a]) (s := { s with host := [.issue b, .issue a] }) hp rfl
  have hswap : [a, b].Perm [b, a] := .swap b a []
  refine ⟨t, u, hrunt, hrunu, ?_, ?_⟩
  · rw [hrest, hresu]
    exact (hswap.filterMap _).append_left _
  · rw [hlogt, hlogu]
    exact (hswap.filterMap _).append_left _

end Sys2Proof.Proofs
end

section
/-! The command map read both ways: what the decoder answers for every command (30_encoding.md R60 to R65). -/

namespace Sys2Proof.Proofs

open Sys2Proof.Machine Sys2Proof.Safety Sys2Proof.Laws

/-! ### The codes and their formats -/

/-- The reserved codes are 0x00 and those from 0x08 on (R63). -/
theorem opFormat_eq_none_iff (op : Byte) : opFormat op = none ↔ op.toNat = 0 ∨ 8 ≤ op.toNat := by
  unfold opFormat
  split_ifs
  case neg =>
    simp only [true_iff]
    bv_omega
  all_goals
    subst op
    decide

/-- The codes of each format (R61). -/
theorem op_of_opFormat {op : Byte} {f : Format} (h : opFormat op = some f) :
    match f with
    | .byte => op = 0x01#8 ∨ op = 0x02#8
    | .seq => op = 0x03#8 ∨ op = 0x04#8 ∨ op = 0x06#8
    | .hdr => op = 0x05#8
    | .recv => op = 0x07#8 := by
  unfold opFormat at h
  split_ifs at h
  all_goals
    cases h
    simp [‹op = _›]

theorem opFormat_opOf (i : Instr) : opFormat (opOf i) = some (operandFormat (operandOf i)) := by
  cases i with
  | bin2ascii v => exact EncodedShape.bin2ascii v
  | parity8 v => exact EncodedShape.parity8 v
  | crc16 s => exact EncodedShape.crc16 s
  | lrc s => exact EncodedShape.lrc s
  | build hd => exact EncodedShape.build hd
  | dump s => exact EncodedShape.dump s
  | receive s n => exact EncodedShape.receive s n

/-- A command is of a legal form, its code's format being its operand's shape, exactly when it encodes an instruction. -/
theorem legalForm_iff_exists_encode (c : Cmd) :
    opFormat c.op = some (operandFormat c.operand) ↔ ∃ i, encode i = c := by
  obtain ⟨op, o⟩ := c
  constructor
  · intro h
    cases o with
    | oByte v =>
      obtain rfl | rfl := op_of_opFormat h
      · exact ⟨.bin2ascii v, rfl⟩
      · exact ⟨.parity8 v, rfl⟩
    | oSeq s =>
      obtain rfl | rfl | rfl := op_of_opFormat h
      · exact ⟨.crc16 s, rfl⟩
      · exact ⟨.lrc s, rfl⟩
      · exact ⟨.dump s, rfl⟩
    | oHdr hd =>
      obtain rfl := op_of_opFormat h
      exact ⟨.build hd, rfl⟩
    | oRecv s n =>
      obtain rfl := op_of_opFormat h
      exact ⟨.receive s n, rfl⟩
  · rintro ⟨i, hi⟩
    cases hi
    exact opFormat_opOf i

/-! ### The decoder on encoded commands and on all others -/

theorem instrOf_encode (i : Instr) : instrOf (encode i).op (encode i).operand = some i := by
  cases i <;> rfl

theorem operandOf_eq_of_instrOf {op : Byte} {o : Operand} {i : Instr} (h : instrOf op o = some i) :
    operandOf i = o := by
  cases o with
  | oByte v | oSeq s | oHdr hd | oRecv s n =>
    rw [instrOf] at h
    split_ifs at h
    all_goals
      cases h
      rfl

theorem encode_eq_of_instrOf {c : Cmd} {i : Instr} (h : instrOf c.op c.operand = some i) : encode i = c := by
  rw [encode, opOf_eq_of_instrOf h, operandOf_eq_of_instrOf h]

theorem decode_encode (m : Option Nat) (i : Instr) :
    decode m (encode i) = if i.wf m then .ok i else .error .operandTooLong := by
  simp only [decode, instrOf_encode]

/-- Without a bound every instruction is read back from its encoding. -/
theorem decode_none_encode (i : Instr) : decode none (encode i) = .ok i :=
  (decode_encode none i).trans (if_pos rfl)

theorem decode_of_not_encoding (m : Option Nat) {c : Cmd} (h : ¬ ∃ i, encode i = c) :
    decode m c = .error .illegalCommand := by
  unfold decode
  cases hi : instrOf c.op c.operand with
  | none => rfl
  | some i => exact absurd ⟨i, encode_eq_of_instrOf hi⟩ h

theorem encode_eq_of_decode {m : Option Nat} {c : Cmd} {i : Instr} (h : decode m c = .ok i) : encode i = c := by
  by_cases hc : ∃ j, encode j = c
  · obtain ⟨j, rfl⟩ := hc
    rw [decode_encode] at h
    split_ifs at h
    cases h
    rfl
  · rw [decode_of_not_encoding m hc] at h
    cases h

/-! ### The length bound -/

theorem seqLen_eq_carriedLen (i : Instr) : i.seqLen = carriedLen (operandOf i) := by
  cases i <;> rfl

theorem wf_iff_not_tooLong {m : Option Nat} {i : Instr} : i.wf m = true ↔ ¬ TooLong m (operandOf i) := by
  unfold Instr.wf TooLong
  rw [seqLen_eq_carriedLen]
  cases m with
  | none => simp
  | some b => cases carriedLen (operandOf i) <;> simp

/-! ### The obligations -/

/-- Settles O2: what decodes is an encoding within the bound, and an encoding within the bound is read back. -/
theorem decodeIsTheInverseOfEncode : Obligations.DecodeIsTheInverseOfEncode := by
  intro m c i
  constructor
  · exact fun h => ⟨encode_eq_of_decode h, wf_of_decode h⟩
  · rintro ⟨rfl, hwf⟩
    rw [decode_encode, if_pos hwf]

/-- Settles O3: a command of no legal form encodes nothing; one of a legal form is an encoding, which the bound alone
can reject. -/
theorem decodeIsTotalAndRejectsByName : Obligations.DecodeIsTotalAndRejectsByName := by
  refine ⟨opFormat_eq_none_iff, fun m c => ?_⟩
  rw [Ne, legalForm_iff_exists_encode]
  refine ⟨decode_of_not_encoding m, ?_, ?_⟩
  · rintro ⟨i, rfl⟩ hlong
    rw [decode_encode, if_neg fun hwf => wf_iff_not_tooLong.mp hwf hlong]
  · rintro ⟨i, rfl⟩ hfits
    exact ⟨i, by rw [decode_encode, if_pos (wf_iff_not_tooLong.mpr hfits)], rfl, rfl⟩

/-- Settles O1: the seven commands are the encodings of their operations. -/
theorem wordsOfTheCommandMapDecode : Obligations.WordsOfTheCommandMapDecode :=
  ⟨decode_none_encode (.bin2ascii _), decode_none_encode (.parity8 _), decode_none_encode (.crc16 _),
    decode_none_encode (.lrc _), decode_none_encode (.build _), decode_none_encode (.dump _),
    decode_none_encode (.receive _ _)⟩

/-- Settles O4, by the rule for a step that takes a command from Idle. -/
theorem stepRunsTheDecodedCommand : Obligations.StepRunsTheDecodedCommand :=
  fun _ _ _ _ hp hh hd => step_of_decode_ok hp hh hd

/-- Settles O49: the command encodes the instruction it decodes to, whose operand has its code's format. -/
theorem operandBytesFollowTheFormat : Obligations.OperandBytesFollowTheFormat := by
  intro m c i h
  obtain rfl := encode_eq_of_decode h
  have hfmt : opFormat (encode i).op = some (operandFormat (operandOf i)) := opFormat_opOf i
  rw [hfmt]
  cases i with
  | bin2ascii v | parity8 v => exact ⟨fun _ => rfl, nofun, nofun⟩
  | build hd => exact ⟨nofun, fun _ => rfl, nofun⟩
  | crc16 s | lrc s | dump s | receive s n => exact ⟨nofun, nofun, fun _ => rfl⟩

end Sys2Proof.Proofs
end

section
/-! The classes of BIN2ASCII (40_ascii_codec.md R100 to R102) and the characters that HEX2 renders. -/

namespace Sys2Proof.Proofs

open Sys2Proof.Machine Sys2Proof.Safety Sys2Proof.Laws

/-- A command whose answer is a result delivers that result and does nothing else (R201). -/
theorem exec_delivers {i : Instr} {r : Res} (h : answerOf i = .ok r) (s : State) :
    ∃ t, exec i s = .next t ∧ DeliversOnly s t r :=
  ⟨_, exec_eq_endCommand i s, h ▸ endCommand_ok_delivers (opOf i) r s⟩

theorem exec_bin2ascii_delivers {v : Byte} {r : Res} (h : bin2asciiRes v = r) (s : State) :
    ∃ t, exec (.bin2ascii v) s = .next t ∧ DeliversOnly s t r :=
  exec_delivers (i := .bin2ascii v) (congrArg Except.ok h) s

/-! ### The three classes of a byte -/

theorem getLsbD_seven_iff {v : Byte} : v.getLsbD 7 = true ↔ 0x80 ≤ v.toNat := by
  have hmsb : v.getLsbD 7 = v.msb := (BitVec.msb_eq_getLsbD_last v).symm
  rw [hmsb, BitVec.msb_eq_decide, decide_eq_true_iff]

/-- The codes of the sixteen digits are two ranges (R67, R101). -/
theorem mem_hexDigits_iff {v : Byte} :
    v ∈ hexDigits ↔ (0x30 ≤ v.toNat ∧ v.toNat ≤ 0x39) ∨ (0x41 ≤ v.toNat ∧ v.toNat ≤ 0x46) := by
  constructor
  · have hall : ∀ d ∈ hexDigits,
        (0x30 ≤ d.toNat ∧ d.toNat ≤ 0x39) ∨ (0x41 ≤ d.toNat ∧ d.toNat ≤ 0x46) := by decide
    exact hall v
  · exact mem_hexDigits_of_range

theorem bin2asciiRes_of_high {v : Byte} (h : 0x80 ≤ v.toNat) : bin2asciiRes v = ⟨0x01#8, .notAscii, .absent⟩ :=
  if_pos (getLsbD_seven_iff.mpr h)

theorem bin2asciiRes_of_mem_hexDigits {v : Byte} (h : v ∈ hexDigits) : bin2asciiRes v = ⟨0x01#8, .ok, .ch v⟩ := by
  have hrange := mem_hexDigits_iff.mp h
  have hclear : ¬ v.getLsbD 7 = true := getLsbD_seven_iff.not.mpr (by omega)
  rw [bin2asciiRes, if_neg hclear]
  exact if_pos hrange

theorem bin2asciiRes_of_not_mem_hexDigits {v : Byte} (hlow : v.toNat ≤ 0x7F) (h : v ∉ hexDigits) :
    bin2asciiRes v = ⟨0x01#8, .outOfHexRange, .absent⟩ := by
  have hclear : ¬ v.getLsbD 7 = true := getLsbD_seven_iff.not.mpr (by omega)
  rw [bin2asciiRes, if_neg hclear]
  exact if_neg fun hrange => h (mem_hexDigits_of_range hrange)

/-- BIN2ASCII succeeds on the sixteen digits and on nothing else (R100). -/
theorem bin2asciiRes_status_eq_ok_iff {v : Byte} : (bin2asciiRes v).status = .ok ↔ v ∈ hexDigits := by
  constructor
  · intro hok
    by_contra hv
    obtain hlow | hhigh := Nat.lt_or_ge v.toNat 0x80
    · rw [bin2asciiRes_of_not_mem_hexDigits (Nat.le_of_lt_succ hlow) hv] at hok
      cases hok
    · rw [bin2asciiRes_of_high hhigh] at hok
      cases hok
  · exact fun hv => by rw [bin2asciiRes_of_mem_hexDigits hv]

/-- The sixteen digits are counted range by range: the ten of '0'–'9' and the six of 'A'–'F'. -/
theorem count_mem_hexDigits : Nat.count (fun n => BitVec.ofNat 8 n ∈ hexDigits) 256 = 16 := by
  have hranges : {n ∈ Finset.range 256 | BitVec.ofNat 8 n ∈ hexDigits} =
      Finset.Icc 0x30 0x39 ∪ Finset.Icc 0x41 0x46 := by
    ext n
    simp only [Finset.mem_filter, Finset.mem_range, mem_hexDigits_iff, BitVec.toNat_ofNat, Finset.mem_union,
      Finset.mem_Icc]
    omega
  rw [Nat.count_eq_card_filter_range, hranges]
  decide

/-! ### What HEX2 renders -/

theorem mem_hexDigits_of_mem_hex2 {v c : Byte} (h : c ∈ hex2 v) : c ∈ hexDigits := by
  rw [hex2_eq_twoDigits, twoDigits, List.mem_pair] at h
  obtain rfl | rfl := h
  · exact digitOf_mem_hexDigits (by omega)
  · exact digitOf_mem_hexDigits (by omega)

/-! ### The obligations -/

/-- Settles O8: each range of R101 lies in one of the three classes, and the bytes that succeed are the sixteen
digits. -/
theorem bin2asciiClassifiesEveryByte : Obligations.Bin2asciiClassifiesEveryByte := by
  constructor
  · refine fun v s => exec_bin2ascii_delivers ?_ s
    split_ifs
    · exact bin2asciiRes_of_not_mem_hexDigits (by omega) (mem_hexDigits_iff.not.mpr (by omega))
    · exact bin2asciiRes_of_mem_hexDigits (mem_hexDigits_iff.mpr (by omega))
    · exact bin2asciiRes_of_not_mem_hexDigits (by omega) (mem_hexDigits_iff.not.mpr (by omega))
    · exact bin2asciiRes_of_mem_hexDigits (mem_hexDigits_iff.mpr (by omega))
    · exact bin2asciiRes_of_not_mem_hexDigits (by omega) (mem_hexDigits_iff.not.mpr (by omega))
    · exact bin2asciiRes_of_high (by omega)
  · simp only [beq_eq_decide, bin2asciiRes_status_eq_ok_iff]
    exact count_mem_hexDigits

/-- Settles O19: HEX2 renders digits only, and BIN2ASCII accepts every digit. -/
theorem bin2asciiAcceptsWhatHex2Renders : Obligations.Bin2asciiAcceptsWhatHex2Renders :=
  fun _ _ s hc => exec_bin2ascii_delivers (bin2asciiRes_of_mem_hexDigits (mem_hexDigits_of_mem_hex2 hc)) s

end Sys2Proof.Proofs
end

section
/-! Error detection: the bit count of PARITY8, the register of CRC16 and what it detects, the sum of LRC
(41_error_detection.md). -/

namespace Sys2Proof.Proofs

open Sys2Proof.Machine Sys2Proof.Safety Sys2Proof.Laws

/-! ### PARITY8 -/

/-- The loop counts the bits from bit 7 down, the reference from bit 0 up. -/
theorem countP_from_top_eq_bitCount (v : Byte) :
    (List.range 8).countP (fun j => v.getLsbD (7 - j)) = bitCount v := by
  have hrev : (List.range 8).map (7 - ·) = (List.range 8).reverse := by decide
  calc (List.range 8).countP (fun j => v.getLsbD (7 - j))
      = ((List.range 8).map (7 - ·)).countP v.getLsbD := List.countP_map.symm
    _ = bitCount v := by rw [hrev, List.countP_reverse, bitCount]

theorem parityCount_toNat (v : Byte) : (parityCount v).toNat = bitCount v := by
  obtain ⟨-, hcnt⟩ := parityLoop_iterate v 8 le_rfl
  exact hcnt.trans (countP_from_top_eq_bitCount v)

/-- Settles O10: after the eighth iteration every bit has been shifted out of `psh` and counted. -/
theorem parityLoopEndsWithTheCount : Obligations.ParityLoopEndsWithTheCount := by
  intro v
  obtain ⟨hsh, -⟩ := parityLoop_iterate v 8 le_rfl
  have hcnt : parityCount v = BitVec.ofNat 4 (bitCount v) := by
    rw [← parityCount_toNat, BitVec.ofNat_toNat, BitVec.setWidth_eq]
  exact Prod.ext (hsh.trans (BitVec.shiftLeft_eq_zero le_rfl)) hcnt

/-- Settles O9: the bit delivered is the count's bit 0. -/
theorem parity8CountsTheOneBits : Obligations.Parity8CountsTheOneBits := by
  intro v s
  obtain ⟨t, ht, hdel⟩ := exec_delivers (i := .parity8 v) rfl s
  refine ⟨t, _, ht, hdel, ?_⟩
  simp [parityCount_toNat]

/-! ### CRC16 -/

theorem lowByte_toNat (r : Half) : (lowByte r).toNat = r.toNat % 256 := by
  simp [lowByte]

theorem highByte_toNat (r : Half) : (highByte r).toNat = r.toNat / 256 := by
  simp only [highByte, BitVec.extractLsb'_toNat, Nat.shiftRight_eq_div_pow]
  omega

/-- The loops of R113 to R115 written out are CRC_CORE. -/
theorem ruleCrc_eq_crcCore (p : List Byte) : ruleCrc p = crcCore p := by
  simp only [ruleCrc, BitVec.ofNat_toNat]
  rfl

/-- CRC16 delivers the low and the high byte of its register and does nothing else (R113). -/
theorem exec_crc16_delivers (p : List Byte) (s : State) :
    ∃ t, exec (.crc16 p) s = .next t ∧
      DeliversOnly s t ⟨0x03#8, .ok, .crc (lowByte (crcCore p)) (highByte (crcCore p))⟩ :=
  exec_delivers (i := .crc16 p) rfl s

/-- The two bytes that CRC16 delivers are its register's, in the order in which they go into a frame. -/
theorem eq_crcBytes_of_delivered {p : List Byte} {lo hi : Byte} {s t : State} (ht : exec (.crc16 p) s = .next t)
    (hres : t.results = s.results ++ [⟨0x03#8, .ok, .crc lo hi⟩]) : [lo, hi] = crcBytes (crcCore p) := by
  rw [exec_eq_endCommand] at ht
  cases ht
  cases List.append_cancel_left hres
  rfl

/-- Settles O11: the register of the rules' loops is the machine's, and its bytes are its value mod and by 256. -/
theorem crc16DeliversTheRegisterLowByteFirst : Obligations.Crc16DeliversTheRegisterLowByteFirst := by
  intro p s
  obtain ⟨t, ht, hdel⟩ := exec_crc16_delivers p s
  rw [ruleCrc_eq_crcCore]
  exact ⟨t, _, _, ht, hdel, lowByte_toNat _, highByte_toNat _⟩

/-- Settles O14: no byte enters the register. -/
theorem crc16OfNothingIsTheInitialRegister : Obligations.Crc16OfNothingIsTheInitialRegister :=
  exec_crc16_delivers []

/-- Settles O12: the shift gives bit k + 1, and the feedback comes in exactly when bit 0 was 1. -/
theorem crcBitShiftsRightAndFeedsBack : Obligations.CrcBitShiftsRightAndFeedsBack := by
  intro c k _
  have hshift : (c >>> 1).getLsbD k = c.getLsbD (k + 1) := by rw [BitVec.getLsbD_ushiftRight, Nat.add_comm]
  rw [crcBit]
  cases c.getLsbD 0 <;> simp [crcPoly, hshift]

/-! ### The CRC of a sequence with its CRC appended -/

/-- While zeros are shifted out, nothing is fed back. -/
theorem crcBit_iterate_of_low_zero {c : Half} {k : Nat} (h : ∀ j < k, c.getLsbD j = false) :
    crcBit^[k] c = c >>> k := by
  induction k with
  | zero => simp
  | succ k ih =>
    have hbit : (c >>> k).getLsbD 0 = false := by simpa using h k (Nat.lt_succ_self k)
    rw [Function.iterate_succ_apply', ih fun j hj => h j (Nat.lt_succ_of_lt hj), crcBit, hbit, BitVec.shiftRight_add]
    rfl

/-- The register's own low byte cancels in it, so that the eight iterations only bring the high byte down. -/
theorem crcByte_lowByte (c : Half) : crcByte c (lowByte c) = (highByte c).zeroExtend 16 := by
  have hlow : ∀ j < 8, (crcXor c (lowByte c)).getLsbD j = false := by
    intro j hj
    have hj16 : j < 16 := by omega
    simp [crcXor, lowByte, hj, hj16]
  rw [crcByte, crcBit_iterate_of_low_zero hlow]
  apply BitVec.eq_of_getLsbD_eq
  intro j hj
  by_cases hj8 : j < 8
  · simp [crcXor, lowByte, highByte, hj, hj8]
  · have hout : c.getLsbD (8 + j) = false := BitVec.getLsbD_of_ge _ _ (by omega)
    simp [crcXor, lowByte, highByte, hj8, hout]

theorem lowByte_zeroExtend (b : Byte) : lowByte (b.zeroExtend 16) = b := by
  apply BitVec.eq_of_toNat_eq
  rw [lowByte_toNat, BitVec.toNat_setWidth]
  omega

theorem highByte_zeroExtend (b : Byte) : highByte (b.zeroExtend 16) = 0#8 := by
  apply BitVec.eq_of_toNat_eq
  rw [highByte_toNat, BitVec.toNat_setWidth, BitVec.toNat_ofNat]
  omega

/-- Its own two bytes, low byte first, clear the register. -/
theorem foldl_crcByte_crcBytes (c : Half) : (crcBytes c).foldl crcByte c = 0#16 := by
  have hlow : crcByte c (lowByte c) = (highByte c).zeroExtend 16 := crcByte_lowByte c
  have hhigh : crcByte ((highByte c).zeroExtend 16) (highByte c) = 0#16 := by
    have hself := crcByte_lowByte ((highByte c).zeroExtend 16)
    rwa [lowByte_zeroExtend, highByte_zeroExtend] at hself
  simp only [crcBytes, List.foldl_cons, List.foldl_nil, hlow, hhigh]

theorem crcCore_append_crcBytes (p : List Byte) : crcCore (p ++ crcBytes (crcCore p)) = 0#16 := by
  rw [crcCore_append, foldl_crcByte_crcBytes]

/-- Settles O15: the bytes delivered are those that clear the register. -/
theorem crcResidueIsZero : Obligations.CrcResidueIsZero := by
  intro p s
  obtain ⟨t, ht, hdel⟩ := exec_crc16_delivers p s
  exact ⟨t, _, _, ht, hdel, crcCore_append_crcBytes p⟩

/-! ### What the CRC detects -/

/-- Folding in the same bytes keeps different registers different. -/
theorem foldl_crcByte_injective (q : List Byte) : Function.Injective (fun c => q.foldl crcByte c) := by
  induction q with
  | nil => exact Function.injective_id
  | cons b q ih => exact ih.comp (crcByte_injective_left b)

/-- Settles O16: the registers differ after the byte, and the bytes after it keep them different. -/
theorem crcTellsOneChangedByte : Obligations.CrcTellsOneChangedByte := by
  intro p q a b hab hcrc
  rw [crcCore_append, crcCore_append] at hcrc
  have hbyte : crcByte (crcCore p) a = crcByte (crcCore p) b := foldl_crcByte_injective q hcrc
  exact hab (crcByte_injective_right _ hbyte)

theorem xor_bit_ne_self {b : Nat} (hb : b < 8) (x : Byte) : x ≠ x ^^^ (1#8 <<< b) := by
  intro h
  have hbit := congrArg (BitVec.getLsbD · b) h
  simp [hb] at hbit

@[simp] theorem length_flipBit (m : List Byte) (i b : Nat) : (flipBit m i b).length = m.length :=
  List.length_modify _ _ _

/-- A flipped bit changes one byte, and so the CRC. -/
theorem crcCore_flipBit_ne {m : List Byte} {i b : Nat} (hi : i < m.length) (hb : b < 8) :
    crcCore (flipBit m i b) ≠ crcCore m := by
  have hm : m.take i ++ m[i] :: m.drop (i + 1) = m := by
    rw [List.getElem_cons_drop, List.take_append_drop]
  have hflip : flipBit m i b = m.take i ++ (m[i] ^^^ (1#8 <<< b)) :: m.drop (i + 1) :=
    List.modify_eq_take_cons_drop hi
  have hne := crcTellsOneChangedByte (m.take i) (m.drop (i + 1)) _ _ (xor_bit_ne_self hb m[i])
  rw [hm, ← hflip] at hne
  exact hne.symm

/-- The checksum zone holds a CRC exactly when the sequence is its payload zone followed by that CRC's bytes. -/
theorem checksumMatches_iff {m : List Byte} (h : 2 ≤ m.length) (r : Half) :
    checksumMatches m r = true ↔ m = payloadZone m ++ crcBytes r := by
  have hzones : m = payloadZone m ++ [m[m.length - 2], m[m.length - 1]] := by
    have hdrop : m.drop (m.length - 2) = [m[m.length - 2], m[m.length - 1]] := by
      have hnext : m.length - 2 + 1 = m.length - 1 := by omega
      have hend : m.length - 1 + 1 = m.length := by omega
      rw [List.drop_eq_getElem_cons (by omega)]
      simp only [hnext]
      rw [List.drop_eq_getElem_cons (by omega), hend, List.drop_length]
    rw [payloadZone, ← hdrop, List.take_append_drop]
  have hlo : readIn m (m.length - 2) = some m[m.length - 2] := List.getElem?_eq_getElem _
  have hhi : readIn m (m.length - 1) = some m[m.length - 1] := List.getElem?_eq_getElem _
  have hbytes : m = payloadZone m ++ crcBytes r ↔ [m[m.length - 2], m[m.length - 1]] = crcBytes r :=
    ⟨fun hm => List.append_cancel_left (hzones.symm.trans hm), fun hb => hb ▸ hzones⟩
  rw [hbytes]
  simp [checksumMatches, hlo, hhi, crcBytes]

/-- A frame whose checksum zone is right has CRC zero as a whole. -/
theorem crcCore_eq_zero_of_checksumMatches {m : List Byte} (h : 2 ≤ m.length)
    (hc : checksumMatches m (crcCore (payloadZone m)) = true) : crcCore m = 0#16 := by
  rw [(checksumMatches_iff h _).mp hc]
  exact crcCore_append_crcBytes _

/-- RECEIVE finds a checksum mismatch in a sequence of the expected size whose CRC as a whole is not zero. -/
theorem exec_receive_of_crcCore_ne_zero {m : List Byte} {n : Int} (hn : (m.length : Int) = n) (h : 2 ≤ m.length)
    (hcrc : crcCore m ≠ 0#16) (s : State) :
    ∃ t, exec (.receive m n) s = .next t ∧ DeliversOnly s t ⟨0x07#8, .checksumMismatch, .ok 0#1⟩ := by
  refine exec_delivers (i := .receive m n) ?_ s
  obtain ⟨hne, -⟩ | ⟨-, hshort, -⟩ | ⟨-, -, hc, -⟩ | ⟨-, -, -, he⟩ := receiveEnd_cases m n (crcCore (payloadZone m))
  · exact absurd hn hne
  · exact absurd h (Nat.not_le_of_lt hshort)
  · exact absurd (crcCore_eq_zero_of_checksumMatches h hc) hcrc
  · exact he

/-- Settles O31: the frame's CRC as a whole is zero, so after the flip it is not. -/
theorem oneFlippedBitOfAnyFrameIsNoticed : Obligations.OneFlippedBitOfAnyFrameIsNoticed := by
  intro p lo hi s t i b ht hres hi2 hb
  have hframe : crcCore (p ++ [lo, hi]) = 0#16 := by
    rw [eq_crcBytes_of_delivered ht hres, crcCore_append_crcBytes]
  have hlen : (p ++ [lo, hi]).length = p.length + 2 := by simp
  have hflip := crcCore_flipBit_ne (hlen ▸ hi2) hb
  rw [hframe] at hflip
  refine exec_receive_of_crcCore_ne_zero ?_ ?_ hflip t
  · rw [length_flipBit, hlen]
    rfl
  · rw [length_flipBit, hlen]
    exact Nat.le_add_left 2 p.length

/-! ### LRC -/

/-- LRC delivers the negated sum and its two digits and does nothing else (R119). -/
theorem exec_lrc_delivers (p : List Byte) (s : State) :
    ∃ t, exec (.lrc p) s = .next t ∧
      DeliversOnly s t ⟨0x04#8, .ok, .lrc (lrcNeg (lrcSum p)) (twoDigits (lrcNeg (lrcSum p)))⟩ := by
  rw [← hex2_eq_twoDigits]
  exact exec_delivers (i := .lrc p) rfl s

/-- Complement plus one is the negation mod 256 (R121). -/
theorem lrcNeg_toNat (a : Byte) : (lrcNeg a).toNat = (256 - a.toNat) % 256 := by
  rw [lrcNeg, ← BitVec.neg_eq_not_add, BitVec.toNat_neg]

/-- Settles O17: the byte delivered is the negation of the sum mod 256. -/
theorem lrcMakesTheSumZeroAndRendersIt : Obligations.LrcMakesTheSumZeroAndRendersIt := by
  intro p s
  obtain ⟨t, ht, hdel⟩ := exec_lrc_delivers p s
  refine ⟨t, _, ht, hdel, ?_⟩
  rw [lrcNeg_toNat, lrcSum_toNat]
  omega

/-- Settles O18: the empty sum is 0, which is its own negation. -/
theorem lrcOfNothingIsZero : Obligations.LrcOfNothingIsZero :=
  exec_lrc_delivers []

end Sys2Proof.Proofs
end

section
/-! RTU frames: what BUILD delivers, the text of DUMP, and the answers of RECEIVE (42_rtu_frame.md). -/

namespace Sys2Proof.Proofs

open Sys2Proof.Machine Sys2Proof.Safety Sys2Proof.Laws

/-! ### BUILD -/

/-- BUILD delivers the frame of its record and does nothing else (R151). -/
theorem exec_build_delivers (h : Hdr) (s : State) :
    ∃ t, exec (.build h) s = .next t ∧ DeliversOnly s t ⟨0x05#8, .ok, .frame (buildFrame h)⟩ :=
  exec_delivers (i := .build h) rfl s

theorem buildFrame_eq_append (h : Hdr) : buildFrame h = hdrBytes h ++ crcBytes (crcCore (hdrBytes h)) := rfl

@[simp] theorem length_buildFrame (h : Hdr) : (buildFrame h).length = 8 := rfl

/-- Settles O20: the frame is the record's bytes and the CRC's, whose values are its register's mod and by 256. -/
theorem buildDeliversTheRequestFrame : Obligations.BuildDeliversTheRequestFrame := by
  intro h s
  obtain ⟨t, ht, hdel⟩ := exec_build_delivers h s
  exact ⟨t, _, _, ht, hdel, lowByte_toNat _, highByte_toNat _⟩

/-- Settles O21: the first six bytes of the frame are the record's, the last two the bytes of their CRC. -/
theorem builtFramesCarryTheirCrc16 : Obligations.BuiltFramesCarryTheirCrc16 := by
  intro h s t f ht hres
  rw [eq_buildFrame_of_delivered ht hres]
  obtain ⟨u, hu, hdel, -⟩ := exec_crc16_delivers (hdrBytes h) t
  exact ⟨length_buildFrame h, u, _, _, hu, hdel, rfl⟩

/-! ### DUMP -/

/-- A text that DUMP delivers is the dump of its bytes. -/
theorem eq_dumpText_of_delivered {p x : List Byte} {s t : State} (ht : exec (.dump p) s = .next t)
    (hres : t.results = s.results ++ [⟨0x06#8, .ok, .text x⟩]) : x = dumpText p := by
  rw [exec_eq_endCommand] at ht
  cases ht
  cases List.append_cancel_left hres
  rfl

theorem dumpText_cons (b : Byte) (p : List Byte) : dumpText (b :: p) = dumpElem b ++ dumpFrom 1 p := rfl

theorem length_dumpElem (b : Byte) : (dumpElem b).length = 4 := rfl

theorem length_dumpPiece_succ (k : Nat) (b : Byte) : (dumpPiece (k + 1) b).length = 6 := rfl

/-- After the first element each byte takes six characters, its separator's two and its own four. -/
theorem length_dumpFrom_succ (k : Nat) (p : List Byte) : (dumpFrom (k + 1) p).length = 6 * p.length := by
  induction p generalizing k with
  | nil => rfl
  | cons b p ih =>
    rw [dumpFrom, List.length_append, length_dumpPiece_succ, ih, List.length_cons]
    omega

theorem digitOf_injOn : ∀ a < 16, ∀ b < 16, digitOf a = digitOf b → a = b := by decide

/-- The two digits of a byte determine it. -/
theorem hex2_injective : Function.Injective hex2 := by
  intro v w hvw
  simp only [hex2_eq_twoDigits, twoDigits, List.cons.injEq, and_true] at hvw
  obtain ⟨hhi, hlo⟩ := hvw
  have hdiv : v.toNat / 16 = w.toNat / 16 := digitOf_injOn _ (by omega) _ (by omega) hhi
  have hmod : v.toNat % 16 = w.toNat % 16 := digitOf_injOn _ (by omega) _ (by omega) hlo
  apply BitVec.eq_of_toNat_eq
  omega

theorem dumpElem_injective : Function.Injective dumpElem :=
  fun _ _ h => hex2_injective (List.append_cancel_left h)

theorem dumpPiece_injective (k : Nat) : Function.Injective (dumpPiece k) :=
  fun _ _ h => dumpElem_injective (List.append_cancel_left h)

theorem length_dumpPiece (k : Nat) (a b : Byte) : (dumpPiece k a).length = (dumpPiece k b).length := by
  rw [dumpPiece, dumpPiece, List.length_append, List.length_append, length_dumpElem, length_dumpElem]

theorem dumpFrom_cons_ne_nil (k : Nat) (b : Byte) (p : List Byte) : dumpFrom k (b :: p) ≠ [] := by
  simp [dumpFrom, dumpPiece, dumpElem]

/-- Pieces at the same index have the same length, so equal texts agree piece by piece. -/
theorem dumpFrom_injective (k : Nat) : Function.Injective (dumpFrom k) := by
  intro p
  induction p generalizing k with
  | nil =>
    intro q h
    cases q with
    | nil => rfl
    | cons b q => exact absurd h.symm (dumpFrom_cons_ne_nil k b q)
  | cons a p ih =>
    intro q h
    cases q with
    | nil => exact absurd h (dumpFrom_cons_ne_nil k a p)
    | cons b q =>
      obtain ⟨hpiece, hrest⟩ := List.append_inj h (length_dumpPiece k a b)
      rw [dumpPiece_injective k hpiece, ih (k + 1) hrest]

/-- Settles O23: the loop's text is the joined elements. -/
theorem dumpJoinsTheHexElements : Obligations.DumpJoinsTheHexElements := by
  intro p s
  rw [← dumpText_eq_joinedDump]
  exact exec_delivers (i := .dump p) rfl s

/-- Settles O24: four characters for the first byte, six for each byte after it. -/
theorem dumpTextHasItsLength : Obligations.DumpTextHasItsLength := by
  intro p s t x ht hres
  rw [eq_dumpText_of_delivered ht hres]
  cases p with
  | nil => exact ⟨fun _ => rfl, fun h => absurd h (by decide)⟩
  | cons b p =>
    refine ⟨fun h => absurd h (List.cons_ne_nil b p), fun _ => ?_⟩
    rw [dumpText_cons, List.length_append, length_dumpElem, length_dumpFrom_succ, List.length_cons]
    omega

/-- Settles O25: the loop from the first element on is injective. -/
theorem dumpTextDeterminesTheBytes : Obligations.DumpTextDeterminesTheBytes :=
  fun _ _ h => dumpFrom_injective 0 h

/-! ### The frame invariant (R30) -/

/-- RECEIVE's test of the checksum zone is the frame invariant (R157). -/
theorem checksumMatches_iff_frameOk {m : List Byte} (h : 2 ≤ m.length) :
    checksumMatches m (crcCore (payloadZone m)) = true ↔ FrameOk m := by
  have hzones : payloadZone m ++ m.drop (m.length - 2) = m := List.take_append_drop _ m
  rw [checksumMatches_iff h]
  constructor
  · exact fun hm => ⟨h, List.append_cancel_left (hzones.trans hm)⟩
  · rintro ⟨-, hdrop⟩
    exact hzones.symm.trans (congrArg (payloadZone m ++ ·) hdrop)

/-- Two bytes after a payload make a frame exactly when they are its CRC's, low byte first. -/
theorem frameOk_append_iff (p : List Byte) (a b : Byte) :
    FrameOk (p ++ [a, b]) ↔ [a, b] = crcBytes (crcCore p) := by
  simp [FrameOk, crcBytes]

theorem frameOk_buildFrame (h : Hdr) : FrameOk (buildFrame h) :=
  (frameOk_append_iff (hdrBytes h) _ _).mpr rfl

/-! ### RECEIVE -/

/-- Settles O26: one case for each of the answers, of which ShortFrame is excluded. -/
theorem receiveChecksSizeThenChecksum : Obligations.ReceiveChecksSizeThenChecksum := by
  intro m n s hlen
  obtain ⟨hne, he⟩ | ⟨hn, hshort, -⟩ | ⟨hn, h2, hc, he⟩ | ⟨hn, h2, hc, he⟩ :=
    receiveEnd_cases m n (crcCore (payloadZone m))
  · obtain ⟨t, ht, hdel⟩ := exec_delivers (i := .receive m n) he s
    exact ⟨t, ht, fun _ => hdel, fun hn => absurd hn hne, fun hn => absurd hn hne⟩
  · exact (hlen.elim (· hn) (Nat.not_le_of_lt hshort)).elim
  · obtain ⟨t, ht, hdel⟩ := exec_delivers (i := .receive m n) he s
    have hf : FrameOk m := (checksumMatches_iff_frameOk h2).mp hc
    exact ⟨t, ht, fun hne => absurd hn hne, fun _ _ => hdel, fun _ hnf => absurd hf hnf⟩
  · obtain ⟨t, ht, hdel⟩ := exec_delivers (i := .receive m n) he s
    have hnf : ¬ FrameOk m := fun hf => Bool.false_ne_true (hc.symm.trans ((checksumMatches_iff_frameOk h2).mpr hf))
    exact ⟨t, ht, fun hne => absurd hn hne, fun _ hf => absurd hf hnf, fun _ _ => hdel⟩

/-- Settles O27: the size check passes, and the next check finds fewer than two bytes. -/
theorem receiveOfAShortFrameFaults : Obligations.ReceiveOfAShortFrameFaults := by
  intro m s hshort
  have hanswer : answerOf (.receive m m.length) = .error .shortFrame := by
    simp [answerOf, receiveEnd, hshort]
  refine ⟨_, exec_eq_endCommand _ s, ?_⟩
  rw [hanswer]
  exact endCommand_error_faults _ _ s

/-- Settles O28: the lengths differ. -/
theorem receiveNoticesAWrongSize : Obligations.ReceiveNoticesAWrongSize := by
  intro m s
  have hne : (m.length : Int) ≠ m.length + 1 := by omega
  obtain ⟨t, ht, hmismatch, -⟩ := receiveChecksSizeThenChecksum m _ s (.inl hne)
  exact ⟨t, ht, hmismatch hne⟩

/-- Settles O29: a built frame meets the frame invariant. -/
theorem builtFramesAreReceivedAsValid : Obligations.BuiltFramesAreReceivedAsValid := by
  intro h s
  obtain ⟨t, ht, hres, -⟩ := exec_build_delivers h s
  obtain ⟨u, hu, -, hvalid, -⟩ :=
    receiveChecksSizeThenChecksum (buildFrame h) 8 t (.inr (frameOk_buildFrame h).1)
  exact ⟨t, _, ht, hres, u, hu, hvalid rfl (frameOk_buildFrame h)⟩

/-- Settles O30: the CRC of a built frame as a whole is zero, so after the flip it is not. -/
theorem oneFlippedBitOfABuiltFrameIsNoticed : Obligations.OneFlippedBitOfABuiltFrameIsNoticed := by
  intro h s i b hi hb
  obtain ⟨t, ht, hres, -⟩ := exec_build_delivers h s
  have hlen : (flipBit (buildFrame h) i b).length = 8 := by rw [length_flipBit, length_buildFrame]
  have hflip : crcCore (flipBit (buildFrame h) i b) ≠ 0#16 := by
    rw [← crcCore_append_crcBytes (hdrBytes h), ← buildFrame_eq_append]
    exact crcCore_flipBit_ne hi hb
  refine ⟨t, _, ht, hres, exec_receive_of_crcCore_ne_zero ?_ ?_ hflip t⟩
  · rw [hlen]
    rfl
  · rw [hlen]
    decide

/-- Settles O32: with its CRC bytes swapped the sequence is a frame exactly when they are equal. -/
theorem swappedCrcBytesAreNoticed : Obligations.SwappedCrcBytesAreNoticed := by
  intro p lo hi s t ht hres
  have hlen : (p ++ [hi, lo]).length = p.length + 2 := by simp
  have hsize : ((p ++ [hi, lo]).length : Int) = p.length + 2 := by rw [hlen]; rfl
  have hframe : FrameOk (p ++ [hi, lo]) ↔ lo = hi := by
    rw [frameOk_append_iff, ← eq_crcBytes_of_delivered ht hres]
    simp only [List.cons.injEq, and_true]
    exact and_iff_right_of_imp Eq.symm
  obtain ⟨u, hu, -, hvalid, hmismatch⟩ :=
    receiveChecksSizeThenChecksum _ _ t (.inr (hlen ▸ Nat.le_add_left 2 p.length))
  exact ⟨u, hu, fun hne => hmismatch hsize (mt hframe.mp hne), fun heq => hvalid hsize (hframe.mpr heq)⟩

end Sys2Proof.Proofs
end

section
/-! The exceptions: the faults of decoding and the one answer of every command (60_exceptions.md R201, R206 to R209). -/

namespace Sys2Proof.Proofs

open Sys2Proof.Machine Sys2Proof.Safety Sys2Proof.Laws

/-! ### The faults of decoding -/

/-- Taking a fault logs its record and returns no result (R209). -/
theorem raiseFault_faults (op : Byte) (k : FaultKind) (s : State) : FaultsOnly s (raiseFault op k s) ⟨op, k⟩ :=
  ⟨rfl, rfl, rfl, rfl, rfl, rfl⟩

/-- Taking a fault changes the log alone where the engine is Idle with nothing in flight (R209). -/
theorem raiseFault_of_idle {s : State} (hp : s.phase = .idle) (hf : s.inflight = none) (op : Byte) (k : FaultKind) :
    raiseFault op k s = { s with faultLog := s.faultLog ++ [⟨op, k⟩] } := by
  rw [raiseFault, ← hp, ← hf]

/-- A command that does not decode adds its record and changes nothing else, in both views (R209). -/
theorem steps_of_decode_error {s : State} {c : Cmd} {rest : List HostEvent} {k : FaultKind} (hp : s.phase = .idle)
    (hf : s.inflight = none) (hh : s.host = .issue c :: rest) (hd : decode s.config.maxSeqLen c = .error k) :
    step s = .next { s with host := rest, faultLog := s.faultLog ++ [⟨c.op, k⟩] } ∧
    microStep s = .next { s with host := rest, faultLog := s.faultLog ++ [⟨c.op, k⟩] } := by
  rw [step_of_decode_error hp hh hd, microStep_of_decode_error hp hh hd,
    raiseFault_of_idle (s := { s with host := rest }) hp hf]
  exact ⟨rfl, rfl⟩

/-- Without a bound no command is too long (R208): it encodes an instruction, which is read back, or none at all. -/
theorem decode_none_ne_operandTooLong (c : Cmd) : decode none c ≠ .error .operandTooLong := by
  by_cases hc : ∃ i, encode i = c
  · obtain ⟨i, rfl⟩ := hc
    rw [decode_none_encode]
    exact nofun
  · rw [decode_of_not_encoding none hc]
    exact nofun

/-- Settles O5: the command decodes to IllegalCommand, and both views take a decode fault alike. -/
theorem illegalCommandTakesItsFault : Obligations.IllegalCommandTakesItsFault := by
  intro s c rest hp hf hh hform
  obtain ⟨hillegal, -, -⟩ := decodeIsTotalAndRejectsByName.2 s.config.maxSeqLen c
  exact steps_of_decode_error hp hf hh (hillegal hform)

/-- Settles O6: the command decodes to OperandTooLong, and both views take a decode fault alike. -/
theorem overlongOperandTakesItsFault : Obligations.OverlongOperandTakesItsFault := by
  refine ⟨fun s c rest hp hf hh hform hlong => ?_, decode_none_ne_operandTooLong⟩
  obtain ⟨-, htooLong, -⟩ := decodeIsTotalAndRejectsByName.2 s.config.maxSeqLen c
  exact steps_of_decode_error hp hf hh (htooLong hform hlong)

/-! ### One result or one fault -/

theorem bin2asciiRes_op (v : Byte) : (bin2asciiRes v).op = 0x01#8 := by
  unfold bin2asciiRes
  split_ifs <;> rfl

/-- The result of a command echoes its operation (R66). -/
theorem op_of_answerOf {i : Instr} {r : Res} (h : answerOf i = .ok r) : r.op = opOf i := by
  cases i with
  | bin2ascii v => cases h; exact bin2asciiRes_op v
  | parity8 v | crc16 s | lrc s | build hd | dump s => cases h; rfl
  | receive s n =>
    obtain ⟨-, he⟩ | ⟨-, -, he⟩ | ⟨-, -, -, he⟩ | ⟨-, -, -, he⟩ :=
      receiveEnd_cases s n (crcCore (payloadZone s)) <;>
      cases he.symm.trans h <;>
      rfl

/-- A command's meaning delivers one result that echoes its operation, or logs one record with it (R201). -/
theorem exec_delivers_or_faults (i : Instr) (s : State) :
    ∃ t, exec i s = .next t ∧ t.host = s.host ∧
      ((∃ r, r.op = opOf i ∧ DeliversOnly s t r) ∨ ∃ k, FaultsOnly s t ⟨opOf i, k⟩) := by
  refine ⟨_, exec_eq_endCommand i s, ?_⟩
  cases ha : answerOf i with
  | ok r => exact ⟨rfl, .inl ⟨r, op_of_answerOf ha, endCommand_ok_delivers (opOf i) r s⟩⟩
  | error k => exact ⟨rfl, .inr ⟨k, endCommand_error_faults (opOf i) k s⟩⟩

/-- Settles O7: a command that decodes ends as its meaning, one that does not takes its decode fault. -/
theorem commandGivesOneResultOrOneFault : Obligations.CommandGivesOneResultOrOneFault := by
  intro s c rest hp hh
  cases hd : decode s.config.maxSeqLen c with
  | ok i =>
    obtain ⟨t, ht, hhost, hends⟩ := exec_delivers_or_faults i { s with host := rest }
    rw [opOf_eq_of_decode hd] at hends
    exact ⟨t, (step_of_decode_ok hp hh hd).trans ht, hhost, hends⟩
  | error k =>
    exact ⟨_, step_of_decode_error hp hh hd, rfl, .inr ⟨k, raiseFault_faults c.op k _⟩⟩

end Sys2Proof.Proofs
end

section
/-! Engine instances beside each other (60_exceptions.md R217). -/

namespace Sys2Proof.Proofs

open Sys2Proof.Machine

theorem stepInstance_of_none {k : Nat} {y : System} (h : y.engines[k]? = none) : stepInstance k y = .next y := by
  simp only [stepInstance, h]

theorem stepInstance_of_some {k : Nat} {y : System} {s t : State} (h : y.engines[k]? = some s)
    (hs : step s = .next t) : stepInstance k y = .next ⟨y.engines.set k t⟩ := by
  simp only [stepInstance, h, hs]

/-- What a step of an instance that goes on can do. -/
theorem stepInstance_cases {k : Nat} {y z : System} (h : stepInstance k y = .next z) :
    (y.engines[k]? = none ∧ z = y) ∨
    ∃ s t, y.engines[k]? = some s ∧ step s = .next t ∧ z = ⟨y.engines.set k t⟩ := by
  cases hk : y.engines[k]? with
  | none =>
    cases (stepInstance_of_none hk).symm.trans h
    exact .inl ⟨rfl, rfl⟩
  | some s =>
    simp only [stepInstance, hk] at h
    cases hs : step s with
    | next t =>
      rw [hs] at h
      cases h
      exact .inr ⟨s, t, rfl, hs, rfl⟩
    | fault r | refused r =>
      rw [hs] at h
      cases h

/-- A step of an instance leaves the others and their number as they were (R217). -/
theorem stepInstance_frame {k : Nat} {y z : System} (h : stepInstance k y = .next z) :
    z.engines.length = y.engines.length ∧ ∀ j, j ≠ k → z.engines[j]? = y.engines[j]? := by
  obtain ⟨-, rfl⟩ | ⟨s, t, -, -, rfl⟩ := stepInstance_cases h
  · exact ⟨rfl, fun _ _ => rfl⟩
  · exact ⟨List.length_set, fun _ hj => List.getElem?_set_ne hj.symm⟩

/-- A step of an instance goes the same way whatever state another instance is in (R217). -/
theorem stepInstance_set_of_ne {j k : Nat} {y w : System} (hjk : j ≠ k) (h : stepInstance k y = .next w)
    (u : State) : stepInstance k ⟨y.engines.set j u⟩ = .next ⟨w.engines.set j u⟩ := by
  have hget : (y.engines.set j u)[k]? = y.engines[k]? := List.getElem?_set_ne hjk
  obtain ⟨hk, rfl⟩ | ⟨s, t, hk, hs, rfl⟩ := stepInstance_cases h
  · exact stepInstance_of_none (hget.trans hk)
  · rw [stepInstance_of_some (hget.trans hk) hs, List.set_comm u t hjk]

/-- Settles O41: after one instance's step the other is as it was, and the two write different places. -/
theorem instancesShareNothing : Obligations.InstancesShareNothing := by
  refine ⟨fun _ _ _ h => stepInstance_frame h, ?_⟩
  intro j k y z w hjk hz hw
  have hj : w.engines[j]? = y.engines[j]? := (stepInstance_frame hw).2 j hjk
  obtain ⟨hnone, rfl⟩ | ⟨s, t, hsome, hs, rfl⟩ := stepInstance_cases hz
  · exact ⟨w, hw, stepInstance_of_none (hj.trans hnone)⟩
  · exact ⟨⟨w.engines.set j t⟩, stepInstance_set_of_ne hjk hw t, stepInstance_of_some (hj.trans hsome) hs⟩

end Sys2Proof.Proofs
end

section
/-! Reset, the engine between commands, and the end of a run (70_reset_and_hazards.md R230, R234 to R237). -/

namespace Sys2Proof.Proofs

open Sys2Proof.Machine Sys2Proof.Safety Sys2Proof.Laws

/-! ### What every operation but reset does to the engine's answers -/

/-- `t` has the results and the records of `s`, with more appended, under the same parameters and with the same actions
of the host to come. -/
def AddsOnly (s t : State) : Prop :=
  (∃ more, t.results = s.results ++ more) ∧ (∃ more, t.faultLog = s.faultLog ++ more) ∧
    t.config = s.config ∧ t.host = s.host

theorem addsOnly_of_eq {s t : State} (hres : t.results = s.results) (hlog : t.faultLog = s.faultLog)
    (hcfg : t.config = s.config) (hhost : t.host = s.host) : AddsOnly s t :=
  ⟨⟨[], by rw [hres, List.append_nil]⟩, ⟨[], by rw [hlog, List.append_nil]⟩, hcfg, hhost⟩

theorem addsOnly_of_deliversOnly {s t : State} {r : Res} (h : DeliversOnly s t r) : AddsOnly s t := by
  obtain ⟨hres, hlog, -, -, hcfg, hhost⟩ := h
  exact ⟨⟨[r], hres⟩, ⟨[], by rw [hlog, List.append_nil]⟩, hcfg, hhost⟩

theorem addsOnly_of_faultsOnly {s t : State} {f : FaultRecord} (h : FaultsOnly s t f) : AddsOnly s t := by
  obtain ⟨hlog, hres, -, -, hcfg, hhost⟩ := h
  exact ⟨⟨[], by rw [hres, List.append_nil]⟩, ⟨[f], hlog⟩, hcfg, hhost⟩

theorem addsOnly_raiseFault (op : Byte) (k : FaultKind) (s : State) : AddsOnly s (raiseFault op k s) :=
  addsOnly_of_faultsOnly (raiseFault_faults op k s)

theorem addsOnly_endCommand (op : Byte) (e : Except FaultKind Res) (s : State) : AddsOnly s (endCommand op e s) := by
  cases e with
  | ok r => exact addsOnly_of_deliversOnly (endCommand_ok_delivers op r s)
  | error k => exact addsOnly_of_faultsOnly (endCommand_error_faults op k s)

theorem addsOnly_of_advance {s t : State} (h : advance s = .next t) : AddsOnly s t := by
  obtain ⟨-, he⟩ | ⟨-, -, he⟩ | ⟨i, -, -, he⟩ | ⟨i, k, -, -, he⟩ := advance_cases s <;> cases he.symm.trans h
  · exact addsOnly_of_eq rfl rfl rfl rfl
  · exact addsOnly_endCommand _ _ s
  · exact addsOnly_of_eq rfl rfl rfl rfl

/-! ### Either way of taking a command -/

/-- A way of taking a command that goes on for every command and only adds to the answers. -/
def TakesByAdding (take : Cmd → State → Host.Outcome State Fault Refusal) : Prop :=
  ∀ c s, ∃ t, take c s = .next t ∧ AddsOnly s t

theorem perform_takesByAdding : TakesByAdding perform := by
  intro c s
  cases hd : decode s.config.maxSeqLen c with
  | ok i => exact ⟨_, (perform_of_ok hd).trans (exec_eq_endCommand i s), addsOnly_endCommand _ _ s⟩
  | error k => exact ⟨_, perform_of_error hd, addsOnly_raiseFault _ _ s⟩

theorem accept_takesByAdding : TakesByAdding accept := by
  intro c s
  cases hd : decode s.config.maxSeqLen c with
  | ok i => exact ⟨_, accept_of_ok hd, addsOnly_of_eq rfl rfl rfl rfl⟩
  | error k => exact ⟨_, accept_of_error hd, addsOnly_raiseFault _ _ s⟩

section
variable (take : Cmd → State → Host.Outcome State Fault Refusal)

/-- Reset is taken whatever the phase (R230). -/
theorem stepWith_of_reset {s : State} {rest : List HostEvent} (hh : s.host = .reset :: rest) :
    stepWith take s = .next (resetEngine { s with host := rest }) := by
  simp only [stepWith, hh]

/-- A Busy engine holds the host's command and goes on with its own (R234). -/
theorem stepWith_issue_of_busy {s : State} {c : Cmd} {rest : List HostEvent} (hp : s.phase = .busy)
    (hh : s.host = .issue c :: rest) : stepWith take s = advance s := by
  simp only [stepWith, hh, hp]

variable {take}

/-- A step is a reset, or it only adds to the answers of the state its host's action leaves. -/
theorem stepWith_resets_or_adds (htake : TakesByAdding take) {s t : State} (h : stepWith take s = .next t) :
    (∃ rest, s.host = .reset :: rest ∧ t = resetEngine { s with host := rest }) ∨
      ∃ rest, AddsOnly { s with host := rest } t := by
  obtain ⟨rest, hh, he⟩ | ⟨-, he⟩ | ⟨rest, -, he⟩ | ⟨c, rest, -, -, he⟩ | ⟨c, rest, -, -, he⟩ :=
    stepWith_cases take s <;> rw [he] at h
  · cases h
    exact .inl ⟨rest, hh, rfl⟩
  · exact .inr ⟨s.host, addsOnly_of_advance h⟩
  · exact .inr ⟨rest, addsOnly_of_advance h⟩
  · exact .inr ⟨s.host, addsOnly_of_advance h⟩
  · obtain ⟨u, hu, hadds⟩ := htake c { s with host := rest }
    cases hu.symm.trans h
    exact .inr ⟨rest, hadds⟩

/-- The invariant shuts out the one state without a next one: Busy with nothing in flight. -/
theorem goesOn_advance {s : State} (h : EngineInv s) : GoesOn (advance s) := by
  obtain ⟨-, he⟩ | ⟨hp, hf, -⟩ | ⟨i, -, -, he⟩ | ⟨i, k, -, -, he⟩ := advance_cases s
  · exact ⟨_, he⟩
  · simp only [EngineInv, hp, hf] at h
  · exact ⟨_, he⟩
  · exact ⟨_, he⟩

theorem goesOn_stepWith (htake : TakesByAdding take) {s : State} (h : EngineInv s) : GoesOn (stepWith take s) := by
  obtain ⟨rest, -, he⟩ | ⟨-, he⟩ | ⟨rest, -, he⟩ | ⟨c, rest, -, -, he⟩ | ⟨c, rest, -, -, he⟩ :=
    stepWith_cases take s <;> rw [he]
  · exact ⟨_, rfl⟩
  · exact goesOn_advance h
  · exact goesOn_advance (s := { s with host := rest }) h
  · exact goesOn_advance h
  · obtain ⟨t, ht, -⟩ := htake c { s with host := rest }
    exact ⟨t, ht⟩

end

/-- In both views a step is a reset, or it only adds to the answers of the state its host's action leaves. -/
theorem steps_reset_or_add {s t : State} (h : step s = .next t ∨ microStep s = .next t) :
    (∃ rest, s.host = .reset :: rest ∧ t = resetEngine { s with host := rest }) ∨
      ∃ rest, AddsOnly { s with host := rest } t :=
  h.elim (stepWith_resets_or_adds perform_takesByAdding) (stepWith_resets_or_adds accept_takesByAdding)

/-! ### The statements -/

/-- Settles O34: a reset is taken before the phase is looked at, and every other step only adds to the log. -/
theorem resetAbandonsAndAloneClearsTheLog : Obligations.ResetAbandonsAndAloneClearsTheLog := by
  refine ⟨fun s rest hh => ?_, fun s t hno h => ?_⟩
  · exact ⟨_, stepWith_of_reset perform hh, stepWith_of_reset accept hh, rfl, rfl, rfl, rfl, rfl, rfl⟩
  · obtain ⟨rest, hh, -⟩ | ⟨rest, -, hlog, -, -⟩ := steps_reset_or_add h
    · exact absurd hh (hno rest)
    · exact hlog

/-- Settles O36: a Busy engine advances with the host's list as it is, and advancing does not touch that list. -/
theorem busyEngineAcceptsNothing : Obligations.BusyEngineAcceptsNothing := by
  intro s t c rest hp hh h
  have hadv : advance s = .next t := by
    obtain hstep | hmicro := h
    · exact (stepWith_issue_of_busy perform hp hh).symm.trans hstep
    · exact (stepWith_issue_of_busy accept hp hh).symm.trans hmicro
  obtain ⟨-, -, -, hhost⟩ := addsOnly_of_advance hadv
  exact hhost

/-- Settles O37: a reset keeps the results and the parameters, and every other step only adds to the results. -/
theorem resultsAndParametersAreKept : Obligations.ResultsAndParametersAreKept := by
  intro s t h
  obtain ⟨rest, -, rfl⟩ | ⟨rest, hres, -, hcfg, -⟩ := steps_reset_or_add h
  · exact ⟨⟨[], (List.append_nil s.results).symm⟩, rfl⟩
  · exact ⟨hres, hcfg⟩

/-- Settles O40, by induction on the list of commands: each step adds its command's answer. -/
theorem runDeliversInIssueOrder : Obligations.RunDeliversInIssueOrder :=
  fun _ _ hp hh => core_run_issues hp hh

/-- Settles O45: taking a command always goes on, and the invariant gives a Busy engine a command to go on with. -/
theorem everyStepGoesOn : Obligations.EveryStepGoesOn :=
  fun _ h => ⟨goesOn_stepWith perform_takesByAdding h.1, goesOn_stepWith accept_takesByAdding h.1⟩

/-- Settles O46: the counts as R235 gives them; a RECEIVE reaches step 2 where its size is right and at least 2. -/
theorem iterationCountsOfTheCommands : Obligations.IterationCountsOfTheCommands :=
  ⟨fun _ => rfl, fun _ => rfl, fun _ => rfl, fun _ _ hn h2 => if_pos ⟨hn, h2⟩, fun _ => rfl, fun _ => rfl⟩

end Sys2Proof.Proofs
end
